-- ==== Sys2Proof/Word.lean ====
section
/-! DEFINITION. The plain data words of the model: bytes, 16-bit words and sparse numbered tables. -/

namespace Sys2Proof

/-- A byte as the ports, the window and the media carry it. -/
abbrev Byte := BitVec 8

/-- A 16-bit word: CRC register, event flags, event mask, two-byte arguments. -/
abbrev Word := BitVec 16

/-- A sparse table of numbered records: only the records in use are listed, lowest number first.
The operations on it are in `Machine/Ops.lean`. -/
abbrev Table (α : Type) := List (Nat × α)

end Sys2Proof
end

