-- ==== Sys2Proof/Syntax.lean ====
section
/-! DEFINITION. The commands of the block: one constructor for each row of spec/opcode_table.json. -/

namespace Sys2Proof

/-- The two host ports (R169). -/
inductive PortId where
  | bay
  | station
  deriving DecidableEq, Repr

/-- The other of the two ports. -/
def PortId.other : PortId → PortId
  | .bay => .station
  | .station => .bay

/-- One step of the part. Port commands carry the port and the argument bytes of R174, multi-byte arguments
as one word. Events at a lane's inputs carry the lane and `elapsed`, the capture-clock ticks that pass at that
lane before the event is taken, the lane's timers running out at their points among them (log entry 3). The engine's own events carry nothing. -/
inductive Instr where
  | chipSelectFall (p : PortId)
  | transactionCut (p : PortId)
  | unknownCommand (p : PortId) (code : Byte)
  | status (p : PortId)
  | readEvents (p : PortId)
  | readEventsClear (p : PortId)
  | setEventMask (p : PortId) (mask : Word)
  | setWindow (p : PortId) (space : Byte) (index offset : Word)
  | readWindow (p : PortId)
  | windowByteRead (p : PortId)
  | writeWindow (p : PortId)
  | settingsWrite (p : PortId) (b : Byte)
  | profileWrite (p : PortId) (b : Byte)
  | presetWrite (p : PortId) (b : Byte)
  | scheduleWrite (p : PortId) (b : Byte)
  | windowByteWrite (p : PortId) (b : Byte)
  | openVolume (p : PortId) (volume profile : Byte) (cylinders : Word) (heads firstSector sectorsPerTrack : Byte)
  | closeVolume (p : PortId) (volume : Byte)
  | postPass (p : PortId) (laneVolume : Byte) (cylinder : Word) (head revolutions settle selector : Byte)
      (cellOverride : Word)
  | abortPass (p : PortId) (lane flags : Byte)
  | locate (p : PortId) (volume : Byte) (cylinder : Word) (head sector : Byte)
  | queryTrack (p : PortId) (volume : Byte) (cylinder : Word) (head : Byte)
  | nextSettled (p : PortId) (volume : Byte) (fromIndex : Word)
  | release (p : PortId) (index : Word)
  | resetDevice (p : PortId)
  | resetAssert
  | resetRelease
  | indexEdge (lane : Fin 4) (elapsed : Nat)
  | noIndexTimeout (lane : Fin 4) (elapsed : Nat)
  | fluxTransition (lane : Fin 4) (elapsed : Nat)
  | intervalTimeout (lane : Fin 4) (elapsed : Nat)
  | grant
  | mergeEnd
  | evaluationCompletion
  | passCompletion (lane : Fin 4)
  | dataPhaseEnd (p : PortId)
  deriving DecidableEq, Repr

end Sys2Proof
end

