-- ==== Sys2Proof/WellFormed.lean ====
section
/-! DEFINITION. Which commands are well formed. Widths and lane numbers are carried by the types; what is
left is that the code of UNKNOWN_COMMAND is a code the command table does not hold. -/

namespace Sys2Proof

/-- The command codes of the command table (R174). -/
def commandCodes : List Byte :=
  [0x00, 0x01, 0x02, 0x10, 0x11, 0x12, 0x20, 0x21, 0x30, 0x31, 0x40, 0x41, 0x42, 0x48, 0x7E]

/-- A command is well formed: an unknown command's code is not in the command table (R171). -/
def Instr.wellFormed : Instr → Bool
  | .unknownCommand _ code => !commandCodes.contains code
  | _ => true

end Sys2Proof
end

