-- ==== Sys2Proof/Decode.lean ====
section
/-! DEFINITION. Reading commands from bits. The opcode table gives no row any bits, so the host's decoder answers
none; the bytes by which a master sends a command are those of the command table (R171, R174). -/

namespace Sys2Proof

/-- The command that a word spells by the opcode table's bits: no row of the table has bits (log entry 5). -/
def decodeTableWord (_nbits _w : Nat) : Option Instr := none

/-- A two-byte argument, high byte first (R174). -/
def wordOf (hi lo : Byte) : Word := hi ++ lo

/-- The bytes of a two-byte argument, high byte first (R174). -/
def wordBytes (w : Word) : List Byte := [w.extractLsb' 8 8, w.extractLsb' 0 8]

/-- The number of argument bytes that follow a command code (R171, R174). -/
def argumentCount (code : Byte) : Nat :=
  if code = 0x02 then 2
  else if code = 0x10 then 5
  else if code = 0x20 then 7
  else if code = 0x21 then 1
  else if code = 0x30 then 9
  else if code = 0x31 then 2
  else if code = 0x40 then 5
  else if code = 0x41 then 4
  else if code = 0x42 then 3
  else if code = 0x48 then 2
  else 0

/-- The command taken by port `p` from a command byte and all its argument bytes (R174); a code outside the table
is a command without arguments (R171). `none` when the arguments are not of the code's number. -/
def decodeArguments (p : PortId) (code : Byte) (args : List Byte) : Option Instr :=
  if code = 0x00 then (match args with | [] => some (.status p) | _ => none)
  else if code = 0x01 then (match args with | [] => some (.readEvents p) | _ => none)
  else if code = 0x02 then (match args with | [a, b] => some (.setEventMask p (wordOf a b)) | _ => none)
  else if code = 0x10 then
    (match args with | [s, a, b, c, d] => some (.setWindow p s (wordOf a b) (wordOf c d)) | _ => none)
  else if code = 0x11 then (match args with | [] => some (.readWindow p) | _ => none)
  else if code = 0x12 then (match args with | [] => some (.writeWindow p) | _ => none)
  else if code = 0x20 then
    (match args with | [v, n, a, b, h, f, t] => some (.openVolume p v n (wordOf a b) h f t) | _ => none)
  else if code = 0x21 then (match args with | [v] => some (.closeVolume p v) | _ => none)
  else if code = 0x30 then
    (match args with
      | [lv, a, b, h, r, t, x, c, d] => some (.postPass p lv (wordOf a b) h r t x (wordOf c d))
      | _ => none)
  else if code = 0x31 then (match args with | [l, f] => some (.abortPass p l f) | _ => none)
  else if code = 0x40 then
    (match args with | [v, a, b, h, t] => some (.locate p v (wordOf a b) h t) | _ => none)
  else if code = 0x41 then (match args with | [v, a, b, h] => some (.queryTrack p v (wordOf a b) h) | _ => none)
  else if code = 0x42 then (match args with | [v, a, b] => some (.nextSettled p v (wordOf a b)) | _ => none)
  else if code = 0x48 then (match args with | [a, b] => some (.release p (wordOf a b)) | _ => none)
  else if code = 0x7E then (match args with | [] => some (.resetDevice p) | _ => none)
  else (match args with | [] => some (.unknownCommand p code) | _ => none)

/-- The command port `p` takes from the bytes of a transaction, when its last argument byte is among them (R171);
the bytes after it belong to the data phase. -/
def decodeTransaction (p : PortId) : List Byte → Option Instr
  | [] => none
  | code :: rest => decodeArguments p code (rest.take (argumentCount code))

/-- The port and the bytes, command code first, by which a master sends a command (R174); the other events of the
opcode table are not sent as bytes of a command. -/
def Instr.transaction : Instr → Option (PortId × List Byte)
  | .status p => some (p, [0x00])
  | .readEvents p => some (p, [0x01])
  | .setEventMask p mask => some (p, 0x02 :: wordBytes mask)
  | .setWindow p space index offset => some (p, [0x10, space] ++ wordBytes index ++ wordBytes offset)
  | .readWindow p => some (p, [0x11])
  | .writeWindow p => some (p, [0x12])
  | .openVolume p volume profile cylinders heads first perTrack =>
    some (p, [0x20, volume, profile] ++ wordBytes cylinders ++ [heads, first, perTrack])
  | .closeVolume p volume => some (p, [0x21, volume])
  | .postPass p laneVolume cylinder head revolutions settle selector cellOverride =>
    some (p, [0x30, laneVolume] ++ wordBytes cylinder ++ [head, revolutions, settle, selector]
      ++ wordBytes cellOverride)
  | .abortPass p lane flags => some (p, [0x31, lane, flags])
  | .locate p volume cylinder head sector => some (p, [0x40, volume] ++ wordBytes cylinder ++ [head, sector])
  | .queryTrack p volume cylinder head => some (p, [0x41, volume] ++ wordBytes cylinder ++ [head])
  | .nextSettled p volume fromIndex => some (p, [0x42, volume] ++ wordBytes fromIndex)
  | .release p index => some (p, 0x48 :: wordBytes index)
  | .resetDevice p => some (p, [0x7E])
  | .unknownCommand p code => some (p, [code])
  | .chipSelectFall _ => none
  | .transactionCut _ => none
  | .readEventsClear _ => none
  | .windowByteRead _ => none
  | .settingsWrite _ _ => none
  | .profileWrite _ _ => none
  | .presetWrite _ _ => none
  | .scheduleWrite _ _ => none
  | .windowByteWrite _ _ => none
  | .resetAssert => none
  | .resetRelease => none
  | .indexEdge _ _ => none
  | .noIndexTimeout _ _ => none
  | .fluxTransition _ _ => none
  | .intervalTimeout _ _ => none
  | .grant => none
  | .mergeEnd => none
  | .evaluationCompletion => none
  | .passCompletion _ => none
  | .dataPhaseEnd _ => none

end Sys2Proof
end

