-- ==== Sys2Proof/Config.lean ====
section
/-! DEFINITION. The free values: what the manual leaves open although the part goes on. They have no body. -/

namespace Sys2Proof

/-- FREE VALUE (log entry 6). R66: while the finish request of a seek mismatch is on its way, the framer
"takes cells while the finish request reaches it". How many cells is not stated, and nothing here bounds it. The
first argument is the lane's number and the second the lane's count of such requests so far. -/
opaque Config.finishDelay (lane count : Nat) : Nat

/-- FREE VALUE (log entry 7). R117, R120: a candidate view read during a merge "may show some positions before
the merge and others after it". How many positions have been written by then is not stated. The argument is
the engine's count of such reads so far. -/
opaque Config.mergeProgress (count : Nat) : Nat

end Sys2Proof
end

