-- ==== Sys2Proof/Machine/State.lean ====
section
/-! DEFINITION. The state of the part, block by block, as plain data, and its value after reset. -/

namespace Sys2Proof.Machine

/-! ## Profiles, presets and settings -/

/-- Recording codes (R1). -/
inductive Encoding where
  | fm
  | mfm
  | gcr
  deriving DecidableEq, Repr

/-- A format profile as stored (R1). A size-code position of `none` is stored as FFh. -/
structure Profile where
  encoding : Encoding
  cellPeriod : Nat
  revPeriod : Nat
  markPattern : Word
  markValue : Byte
  markRepeat : Nat
  idMark : Byte
  dataMark : Byte
  deletedMark : Byte
  idLength : Nat
  cylPos : Nat
  cylWidth : Nat
  headPos : Nat
  sectorPos : Nat
  sizePos : Option Nat
  lengthCode : Nat
  gapLimit : Nat
  crcPreset : Word
  crcMarkCount : Nat
  deriving DecidableEq, Repr

/-- R5: the values every profile holds after reset. -/
def Profile.reset : Profile where
  encoding := .mfm
  cellPeriod := 2560
  revPeriod := 200000
  markPattern := 0x4489
  markValue := 0xA1
  markRepeat := 3
  idMark := 0xFE
  dataMark := 0xFB
  deletedMark := 0xF8
  idLength := 4
  cylPos := 0
  cylWidth := 1
  headPos := 1
  sectorPos := 2
  sizePos := some 3
  lengthCode := 0
  gapLimit := 43
  crcPreset := 0xFFFF
  crcMarkCount := 3

/-- A preset (R48). The in-force lanes field is computed from the lanes (R50). -/
structure Preset where
  gain : Nat
  tolerance : Nat
  bias : Int
  deriving DecidableEq, Repr

/-- R51. -/
def Preset.reset : Preset := ⟨2, 1, 0⟩

/-- The settings block (R179). -/
structure Settings where
  rotating : Bool
  grantBurst : Nat
  confirmTarget : Nat
  crcBonus : Nat
  contestMargin : Nat
  repairDepth : Nat
  voteQuorum : Nat
  trustFloor : Nat
  seekLimit : Nat
  lowThreshold : Nat
  deriving DecidableEq, Repr

/-- R179, the Reset column. -/
def Settings.reset : Settings where
  rotating := false
  grantBurst := 1
  confirmTarget := 2
  crcBonus := 8
  contestMargin := 6
  repairDepth := 3
  voteQuorum := 3
  trustFloor := 10
  seekLimit := 2
  lowThreshold := 256

/-! ## Sectors: volumes, tracks, entries and slots -/

/-- A volume record (R95). After a close the geometry and four of the counts keep their values (R97). -/
structure Volume where
  isOpen : Bool
  profile : Fin 8
  cylinders : Nat
  heads : Nat
  firstSector : Nat
  sectorsPerTrack : Nat
  live : Nat
  settled : Nat
  released : Nat
  tracksDone : Nat
  tableFull : Nat
  surplus : Nat
  deriving DecidableEq, Repr

/-- R95: after reset every volume is FREE and every field reads 0. -/
def Volume.reset : Volume := ⟨false, 0, 0, 0, 0, 0, 0, 0, 0, 0, 0, 0⟩

/-- The key of a track record (R99). -/
structure TrackKey where
  volume : Fin 8
  cylinder : Nat
  head : Nat
  deriving DecidableEq, Repr

/-- An allocated track record (R99). Bit k of the released set stands for sector offset k (R181). -/
structure Track where
  key : TrackKey
  settled : Nat
  released : Nat
  live : Nat
  releasedSet : BitVec 64
  done : Bool
  deriving DecidableEq, Repr

/-- The key of a sector: volume, cylinder, head and sector number. -/
structure SectorKey where
  track : TrackKey
  sector : Nat
  deriving DecidableEq, Repr

/-- The status of an entry that is not FREE (R102). FREE entries are not listed in the sector table. -/
inductive Status where
  | opened
  | provisional
  | settled
  | conflict
  deriving DecidableEq, Repr

/-- The source of an entry's witness (R116). -/
inductive Origin where
  | none
  | attempt
  | vote
  | repair
  deriving DecidableEq, Repr

/-- The repair outcome of an evaluation (R148). -/
inductive Repair where
  | notTried
  | accepted
  | noneFound
  | ambiguous
  deriving DecidableEq, Repr

/-- The record of a sector table entry that is not FREE (R102, R131, R132, R151, R157). -/
structure Entry where
  key : SectorKey
  status : Status
  busy : Bool
  dataLength : Nat
  deleted : Bool
  target : Nat
  surplus : Nat
  mismatches : Nat
  merged : Nat
  crcGood : Nat
  origin : Origin
  confirmations : Nat
  conflicts : Nat
  replacements : Nat
  conflictRecorded : Bool
  voteConfirm : Bool
  generation : Nat
  blank : Nat
  contestedCount : Nat
  contestedList : List Nat
  repair : Repair
  unsearched : Nat
  deriving DecidableEq, Repr

/-- A candidate: a value and its weight (R116). -/
structure Candidate where
  value : Byte
  weight : Nat
  deriving DecidableEq, Repr

/-- What an entry's slot of candidate memory holds (R116). The list at place k of `lists` is the candidate
list of position k, head first. -/
structure Slot where
  lists : List (List Candidate)
  witness : Option (List Byte)
  image : List Byte
  deriving DecidableEq, Repr

/-! ## Attempts -/

/-- A completed field pair that anchoring has kept (R73). -/
structure Attempt where
  lane : Fin 4
  key : SectorKey
  dataLength : Nat
  deleted : Bool
  crcGood : Bool
  bytes : List Byte
  confidences : List Nat
  deriving DecidableEq, Repr

/-! ## The read lane -/

/-- A pass descriptor held by a lane (R58). A selector of 16, the lane's schedule, is `none`; an absent cell
override is `none`. The lane is the one that holds the descriptor. -/
structure Descriptor where
  volume : Fin 8
  cylinder : Nat
  head : Nat
  revolutions : Nat
  settle : Nat
  preset : Option (Fin 16)
  cellOverride : Option Nat
  deriving DecidableEq, Repr

/-- Lane states (R61). -/
inductive LaneState where
  | idle
  | armed
  | capturing
  | finishing
  | draining
  deriving DecidableEq, Repr

/-- The causes that end capture, which are also the pass outcomes (R65, R81). -/
inductive PassOutcome where
  | complete
  | aborted
  | noIndex
  | seekMismatch
  deriving DecidableEq, Repr

/-- The timing state of a lane (R22). `timerTicks` counts ticks since the index timer's last restart, up to
2N index microseconds; the index timer is its number of whole index microseconds (`Timing.indexTimer`). -/
structure Timing where
  timerTicks : Nat
  edgeSeen : Bool
  history : List Nat
  lastPeriod : Nat
  settleCount : Nat
  cauto : Nat
  ceff : Nat
  speedClamp : Bool
  deriving DecidableEq, Repr

/-- The separator's state (R39). -/
structure Separator where
  ccur : Nat
  presetInForce : Fin 16
  gain : Nat
  tolerance : Nat
  bias : Int
  deriving DecidableEq, Repr

/-- One copy of a variant schedule (R52). -/
structure Schedule where
  slotCount : Nat
  frameLength : Nat
  slots : Vector (Fin 16) 16
  deriving DecidableEq, Repr

/-- R57. -/
def Schedule.reset : Schedule := ⟨1, 1, Vector.replicate 16 0⟩

/-- A lane's schedule state (R52). -/
structure ScheduleState where
  active : Schedule
  staged : Schedule
  pending : Bool
  slotPosition : Nat
  revInSlot : Nat
  deriving DecidableEq, Repr

/-- Framer states (R10). -/
inductive FramerMode where
  | stopped
  | hunt
  | mark
  | id
  | gap
  | data
  deriving DecidableEq, Repr

/-- A cell with its confidence (R46). -/
structure RecordedCell where
  one : Bool
  confidence : Nat
  deriving DecidableEq, Repr

/-- The ID held by the framer (R14), with the data length it decides. -/
structure HeldId where
  cylinder : Nat
  head : Nat
  sector : Nat
  sizeCode : Nat
  illegalSize : Bool
  crcGood : Bool
  dataLength : Nat
  bytes : List Byte
  confidences : List Nat
  deriving DecidableEq, Repr

/-- The framer's state (R10 to R19). `cells` and `bytes` hold the byte and the field in progress, newest
first; `fieldMark` is the field mark byte as decoded, and `deletedField` says that it was the deleted-data
mark. `finishing` is set while a finish request waits for the field in progress. -/
structure Framer where
  mode : FramerMode
  finishing : Bool
  cellHistory : Word
  historyLength : Nat
  matchCount : Nat
  sinceMatch : Nat
  oneRun : Nat
  heldId : Option HeldId
  gapCount : Nat
  markFromGap : Bool
  runViolations : Nat
  cells : List RecordedCell
  fieldMark : Byte
  deletedField : Bool
  bytes : List Byte
  confidences : List Nat
  deriving DecidableEq, Repr

/-- R10: STOPPED, holding no ID, with every count 0 and the cell history empty. -/
def Framer.reset : Framer where
  mode := .stopped
  finishing := false
  cellHistory := 0
  historyLength := 0
  matchCount := 0
  sinceMatch := 0
  oneRun := 0
  heldId := none
  gapCount := 0
  markFromGap := false
  runViolations := 0
  cells := []
  fieldMark := 0
  deletedField := false
  bytes := []
  confidences := []

/-- The counts of the lane report (R79). -/
structure Counts where
  attempts : Nat
  overruns : Nat
  queueDiscards : Nat
  unanchored : Nat
  idCrcBad : Nat
  dataCrcGood : Nat
  syncLosses : Nat
  codeViolations : Nat
  strayMarks : Nat
  orphanIds : Nat
  seekMismatches : Nat
  outOfGeometry : Nat
  indexFaults : Nat
  indexGlitches : Nat
  settledByPass : Nat
  deriving DecidableEq, Repr

/-- R79: every count 0. -/
def Counts.zero : Counts := ⟨0, 0, 0, 0, 0, 0, 0, 0, 0, 0, 0, 0, 0, 0, 0⟩

/-- A read lane: its pass controller (R61), timing (R22), separator (R39), schedule (R52), framer (R10), open
interval (R38: the ticks it has been open, `none` while no interval is measured), report (R78 to R81) and
attempt queue (R82, oldest first). The last two fields are the MODEL's own (log entry 6): `request` holds, while the
finish request of a seek mismatch is on its way to the framer (R66), the number of cells the framer still takes
before it arrives, and `freeCount` how many free values the lane has drawn. -/
structure Lane where
  state : LaneState
  active : Option Descriptor
  chain : Option Descriptor
  cause : Option PassOutcome
  revolutions : Nat
  timing : Timing
  separator : Separator
  schedule : ScheduleState
  framer : Framer
  interval : Option Nat
  counts : Counts
  outcome : Option PassOutcome
  queue : List Attempt
  request : Option Nat
  freeCount : Nat
  deriving DecidableEq, Repr

/-- R10, R22, R39, R57, R61, R78, R79, R81, R82: a lane after reset. -/
def Lane.reset : Lane where
  state := .idle
  active := none
  chain := none
  cause := none
  revolutions := 0
  timing := ⟨0, false, [], 0, 0, 0, 0, false⟩
  separator := ⟨0, 0, 0, 0, 0⟩
  schedule := ⟨Schedule.reset, Schedule.reset, false, 0, 0⟩
  framer := Framer.reset
  interval := none
  counts := Counts.zero
  outcome := none
  queue := []
  request := none
  freeCount := 0

/-! ## Arbiter and engine -/

/-- The merge arbiter (R86). -/
structure Arbiter where
  order : List (Fin 4)
  owner : Option (Fin 4)
  served : Nat
  rotating : Bool
  burst : Nat
  deriving DecidableEq, Repr

/-- R86, the Reset column. -/
def Arbiter.reset : Arbiter := ⟨[0, 1, 2, 3], none, 0, false, 1⟩

/-- The engine's phases (R118). -/
inductive EnginePhase where
  | idle
  | merge
  | evaluation
  deriving DecidableEq, Repr

/-- The attempt in hand and the entry found or allocated for it (R118). The lane it came from is the
attempt's own lane field (R73, R87). -/
structure Hand where
  attempt : Attempt
  entry : Nat
  deriving DecidableEq, Repr

/-- The consensus engine (R118). `written` counts the positions the merge has already written back (R120);
`freeCount` is the MODEL's own: how many free values the engine has drawn. -/
structure Engine where
  phase : EnginePhase
  hand : Option Hand
  bonus : Nat
  margin : Nat
  depth : Nat
  quorum : Nat
  written : Nat
  freeCount : Nat
  deriving DecidableEq, Repr

/-- R118, the Reset column. -/
def Engine.reset : Engine := ⟨.idle, none, 8, 6, 3, 3, 0, 0⟩

/-! ## Ports -/

/-- Result codes (R173). -/
inductive ResultCode where
  | ok
  | busy
  | refused
  | range
  | notFound
  | unknown
  | cut
  deriving DecidableEq, Repr

/-- A window cursor (R169): a byte of a record, or the end position of a space. -/
inductive Cursor where
  | point (space index offset : Nat)
  | endOf (space : Nat)
  deriving DecidableEq, Repr

/-- Where a port's transaction stands (R170 to R172). `response` holds the data-phase bytes fixed when the
command was taken, and the flag copy that READ EVENTS has still to clear (R183). `reading` and `writing` hold
the data-phase bytes shifted out so far. `abandoned` is a transaction cut off by a reset, whose rest shifts out
FFh (R185, R186). -/
inductive Phase where
  | closed
  | command (status : Byte)
  | response (out : List Byte) (copy : Option Word)
  | reading (out : List Byte)
  | writing (out : List Byte)
  | abandoned
  deriving DecidableEq, Repr

/-- The state of a port (R169) and of its transaction. -/
structure Port where
  cursor : Cursor
  lastResult : ResultCode
  flags : Word
  mask : Word
  phase : Phase
  deriving DecidableEq, Repr

/-- R169, the Reset column, with no transaction in progress. -/
def Port.reset : Port := ⟨.point 0 0 0, .ok, 0, 0, .closed⟩

/-! ## The part -/

/-- The state of the part. FREE entries and free track records are not listed in their tables; `slots` is the
candidate memory, listing the slots the engine has written. `resetLow` says that the RESET_N pin is low.
`pending` is the queue of commands waiting to be taken, first in, first out. -/
structure State where
  profiles : Vector Profile 8
  presets : Vector Preset 16
  settings : Settings
  volumes : Vector Volume 8
  tracks : Table Track
  entries : Table Entry
  slots : Table Slot
  freeEntries : Nat
  lowWarning : Bool
  lanes : Vector Lane 4
  arbiter : Arbiter
  engine : Engine
  bay : Port
  station : Port
  resetLow : Bool
  pending : List Instr
  deriving DecidableEq, Repr

/-- The part after reset, RESET_N high (R185, R186). Candidate memory lists nothing (log entry 2). -/
def State.reset : State where
  profiles := Vector.replicate 8 Profile.reset
  presets := Vector.replicate 16 Preset.reset
  settings := Settings.reset
  volumes := Vector.replicate 8 Volume.reset
  tracks := []
  entries := []
  slots := []
  freeEntries := 4096
  lowWarning := false
  lanes := Vector.replicate 4 Lane.reset
  arbiter := Arbiter.reset
  engine := Engine.reset
  bay := Port.reset
  station := Port.reset
  resetLow := false
  pending := []

/-! ## Stops -/

/-- Faults of the part: none. The manual names no event that stops the machine, so the type has no
constructor and no step can end in a fault. -/
inductive Fault where
  deriving DecidableEq, Repr

/-- Refusals. -/
inductive Refusal where
  /-- Raised only by an arm of `exec` whose command has no meaning yet (none is left). Safe: the model stops. -/
  | notModelled (mnemonic : String)
  deriving DecidableEq, Repr

end Sys2Proof.Machine
end

