-- ==== Sys2Proof/Machine/Ops.lean ====
section
/-! DEFINITION. The shared operations: sparse tables, saturating counts, access to lanes, ports, volumes and
sector records, the free entry count and its warning. -/

namespace Sys2Proof.Machine

/-! ## Sparse tables -/

/-- The record listed under number `k`. -/
def Table.get {α : Type} : Table α → Nat → Option α
  | [], _ => none
  | (j, v) :: t, k => if j = k then some v else Table.get t k

/-- List `v` under number `k`, in place of what stood there, lowest number first. -/
def Table.put {α : Type} : Table α → Nat → α → Table α
  | [], k, v => [(k, v)]
  | (j, w) :: t, k, v =>
    if k < j then (k, v) :: (j, w) :: t else if k = j then (k, v) :: t else (j, w) :: Table.put t k v

/-- Take number `k` out of the list. -/
def Table.drop {α : Type} : Table α → Nat → Table α
  | [], _ => []
  | (j, w) :: t, k => if j = k then t else (j, w) :: Table.drop t k

/-- The lowest number from `i` on, among `n` numbers, under which nothing is listed. -/
def Table.lowestFree {α : Type} (t : Table α) : Nat → Nat → Option Nat
  | 0, _ => none
  | n + 1, i => if (Table.get t i).isNone then some i else Table.lowestFree t n (i + 1)

/-- The first listed record, lowest number first, that satisfies `f`, with its number. -/
def Table.search {α : Type} (f : α → Bool) : Table α → Option (Nat × α)
  | [] => none
  | (j, v) :: t => if f v then some (j, v) else Table.search f t

/-- Canonical form: numbers strictly rising, all below `bound`. -/
def Table.wf {α : Type} (bound : Nat) : Table α → Bool
  | [] => true
  | (j, _) :: t => decide (j < bound) && (t.all fun e => decide (j < e.1)) && Table.wf bound t

/-! ## Counts -/

/-- Increase a count by one, saturating at `top`. -/
def satInc (top n : Nat) : Nat := if n < top then n + 1 else n

/-- Increase a count by `k`, saturating at `top`. -/
def satAdd (top n k : Nat) : Nat := if n + k ≤ top then n + k else max n top

/-! ## Lanes, ports, volumes -/

/-- Replace lane `l`. -/
def State.setLane (s : State) (l : Fin 4) (x : Lane) : State := { s with lanes := s.lanes.set l x }

/-- The state of port `p`. -/
def State.port (s : State) : PortId → Port
  | .bay => s.bay
  | .station => s.station

/-- Replace the state of port `p`. -/
def State.setPort (s : State) (p : PortId) (x : Port) : State :=
  match p with
  | .bay => { s with bay := x }
  | .station => { s with station := x }

/-- Replace volume record `v`. -/
def State.setVolume (s : State) (v : Fin 8) (x : Volume) : State := { s with volumes := s.volumes.set v x }

/-- A profile is in use while at least one OPEN volume names it (R4). -/
def State.profileInUse (s : State) (n : Fin 8) : Bool :=
  s.volumes.toList.any fun v => v.isOpen && v.profile == n

/-- The profile volume `v` is bound to. -/
def State.profileOf (s : State) (v : Fin 8) : Profile := s.profiles[(s.volumes[v]).profile]

/-! ## Sector and track records -/

/-- The number and record of the track with key `k` (R99). -/
def State.findTrack (s : State) (k : TrackKey) : Option (Nat × Track) :=
  Table.search (fun t => t.key == k) s.tracks

/-- The index and record of the entry with key `k` (R102). -/
def State.findEntry (s : State) (k : SectorKey) : Option (Nat × Entry) :=
  Table.search (fun e => e.key == k) s.entries

/-- Replace the record of entry `i`. -/
def State.setEntry (s : State) (i : Nat) (e : Entry) : State := { s with entries := Table.put s.entries i e }

/-- Replace track record `i`. -/
def State.setTrack (s : State) (i : Nat) (t : Track) : State := { s with tracks := Table.put s.tracks i t }

/-- Replace the contents of slot `i` of candidate memory. -/
def State.setSlot (s : State) (i : Nat) (x : Slot) : State := { s with slots := Table.put s.slots i x }

/-- A sector's offset on its track: its number minus the volume's first sector (R99). -/
def State.offsetOf (s : State) (k : SectorKey) : Nat := k.sector - (s.volumes[k.track.volume]).firstSector

/-- The sector stands in its track record's released set (R99, R104). -/
def State.isReleased (s : State) (k : SectorKey) : Bool :=
  match s.findTrack k.track with
  | some (_, t) => t.releasedSet.getLsbD (s.offsetOf k)
  | none => false

/-- The sector numbers of a volume run from its first sector over its sectors per track (R95). -/
def Volume.holdsSector (v : Volume) (sector : Nat) : Bool :=
  decide (v.firstSector ≤ sector) && decide (sector < v.firstSector + v.sectorsPerTrack)

/-- The free entry count grows by `n` as entries become FREE, and, if it grows, the table-low warning clears
when the count is then at or above the threshold (R110). -/
def State.freeUp (s : State) (n : Nat) : State :=
  { s with
    freeEntries := s.freeEntries + n
    lowWarning :=
      if n ≠ 0 ∧ s.settings.lowThreshold ≤ s.freeEntries + n then false else s.lowWarning }

/-! ## Arbiter and engine -/

/-- The end of a burst: the owner goes, and under a latched rotating mode it moves to the end of the rotation
order (R92). DESIGN CHOICE (log entry 22): the latched mode and the latched burst, which R86 defines for a burst in
progress, keep their values until the next burst begins. -/
def Arbiter.endBurst (a : Arbiter) : Arbiter :=
  { a with
    owner := none
    served := 0
    order :=
      match a.owner with
      | some l => if a.rotating then a.order.filter (· != l) ++ [l] else a.order
      | none => a.order }

/-- The engine holds an attempt of lane `l` (R68, R87). -/
def Engine.holdsLane (e : Engine) (l : Fin 4) : Bool :=
  match e.hand with
  | some h => h.attempt.lane == l
  | none => false

/-- The engine holds an attempt of volume `v` (R97). -/
def Engine.holdsVolume (e : Engine) (v : Fin 8) : Bool :=
  match e.hand with
  | some h => h.attempt.key.track.volume == v
  | none => false

/-- The engine is busy: in MERGE or EVALUATION (R87, R118). -/
def Engine.busy (e : Engine) : Bool := e.phase != .idle

end Sys2Proof.Machine
end

