-- ==== Sys2Proof/Machine/Flags.lean ====
section
/-! DEFINITION. Events, event flags, attention lines and result codes. -/

namespace Sys2Proof.Machine

/-- The events of R182. -/
inductive Event where
  | passDone (lane : Fin 4)
  | settled
  | conflict
  | trackDone
  | tableLow
  | tableFull
  | laneFault
  deriving DecidableEq, Repr

/-- The bit of an event in the event flag word (R182). -/
def Event.bit : Event → Nat
  | .passDone l => l.val
  | .settled => 4
  | .conflict => 5
  | .trackDone => 6
  | .tableLow => 7
  | .tableFull => 8
  | .laneFault => 9

/-- A raised event sets its flag; a flag already set stays set (R182). -/
def Port.raise (x : Port) (e : Event) : Port := { x with flags := x.flags ||| (1#16 <<< e.bit) }

/-- A raised event sets its flag in both ports' flag sets (R182). -/
def State.raise (s : State) (e : Event) : State :=
  { s with bay := s.bay.raise e, station := s.station.raise e }

/-- The port's attention line is active, driven low, while a flag is set both in the flag set and in the mask
(R184). -/
def Port.attention (x : Port) : Bool := (x.flags &&& x.mask) != 0

/-- The code of a result (R173). -/
def ResultCode.code : ResultCode → Nat
  | .ok => 0
  | .busy => 1
  | .refused => 2
  | .range => 3
  | .notFound => 4
  | .unknown => 5
  | .cut => 6

/-- A result code as the byte a response carries (R172). -/
def ResultCode.byte (r : ResultCode) : Byte := BitVec.ofNat 8 r.code

/-- Within a window transaction the first code other than OK stays (R173). -/
def ResultCode.note (old new : ResultCode) : ResultCode := if old = .ok then new else old

/-- The status byte captured at the falling edge of chip select (R170). -/
def State.statusByte (s : State) (p : PortId) : Byte :=
  BitVec.ofNat 8
    ((if (s.port p).attention then 128 else 0) + 16 * (s.port p).lastResult.code
      + (if s.engine.busy then 8 else 0))

/-- The byte a port's data-out line carries as the `k`-th byte: of the transaction, from the command byte on, until
the command is taken (R170, R171), and of the data phase afterwards, 00h past the response (R172, R185). A transaction
a reset has abandoned shifts out FFh (R185, R186); DESIGN CHOICE (log entry 24): so it does after RESET_N has risen within
it, where R186 says only that it is ignored to its end. With chip select high the line is not driven (R170). -/
def Phase.shiftsOut (k : Nat) : Phase → Option Byte
  | .closed => none
  | .command status => some (if k = 0 then status else 0)
  | .response out _ => some (out.getD k 0)
  | .reading out => some (out.getD k 0)
  | .writing _ => some 0
  | .abandoned => some 0xFF

end Sys2Proof.Machine
end

