-- ==== Sys2Proof/Machine/Merge.lean ====
section
/-! DEFINITION. The merge of an attempt into an entry (R118 to R136): byte weights, candidate lists, the witness at
the merge. -/

namespace Sys2Proof.Machine

/-! ## Candidate lists -/

/-- A byte's weight: its confidence, plus the latched CRC bonus when the attempt's data CRC was good (R123). -/
def byteWeight (bonus : Nat) (crcGood : Bool) (confidence : Nat) : Nat :=
  if crcGood then confidence + bonus else confidence

/-- A candidate takes its place ahead of every candidate of strictly less weight and behind the others (R125,
R127, R128). -/
def placeCandidate (c : Candidate) : List Candidate → List Candidate
  | [] => [c]
  | x :: t => if x.weight < c.weight then c :: x :: t else x :: placeCandidate c t

/-- Halving: every weight halved, rounding down, and candidates of weight 0 removed (R126). -/
def halveList (l : List Candidate) : List Candidate :=
  (l.map fun c => ⟨c.value, c.weight / 2⟩).filter fun c => c.weight != 0

/-- The weight a list gives a value, 0 when the value is absent. -/
def weightOf (v : Byte) (l : List Candidate) : Nat :=
  match l.find? (fun c => c.value == v) with
  | some c => c.weight
  | none => 0

/-- A present value's weight increases by `w` and its candidate moves up (R127). -/
def increaseCandidate (v : Byte) (w : Nat) (l : List Candidate) : List Candidate :=
  placeCandidate ⟨v, weightOf v l + w⟩ (l.filter fun c => c.value != v)

/-- An absent value meets a list: it is added to a list of fewer than three (R128), or contests the last place of
a list of three (R129). -/
def admitCandidate (v : Byte) (w : Nat) (l : List Candidate) : List Candidate :=
  match l with
  | [a, b, t] =>
    if t.weight < w then placeCandidate ⟨v, w - t.weight⟩ [a, b]
    else if t.weight = w then [a, b]
    else [a, b, ⟨t.value, t.weight - w⟩]
  | _ => placeCandidate ⟨v, w⟩ l

/-- The update of one list by one byte of value `v` and weight `w` (R124 to R129). -/
def updateList (v : Byte) (w : Nat) (l : List Candidate) : List Candidate :=
  if w = 0 then l
  else if l.any (fun c => c.value == v) then
    increaseCandidate v w (if 255 < weightOf v l + w then halveList l else l)
  else admitCandidate v w l

/-- The merge of positions `lo` to `hi` − 1 of an attempt into the candidate lists, each position on its own
(R120, R130). The fourth argument is the position of the first list given. -/
def mergeRange (weight : Nat → Nat) (lo hi : Nat) : Nat → List (List Candidate) → List Byte → List Nat →
    List (List Candidate)
  | pos, l :: ls, b :: bs, c :: cs =>
    (if lo ≤ pos ∧ pos < hi then updateList b (weight c) l else l) :: mergeRange weight lo hi (pos + 1) ls bs cs
  | _, ls, _, _ => ls

/-! ## The witness at the merge -/

/-- The merge counts (R131). -/
def Entry.countMerge (e : Entry) (crcGood : Bool) : Entry :=
  { e with merged := satInc 65535 e.merged, crcGood := if crcGood then satInc 65535 e.crcGood else e.crcGood }

/-- The attempt's bytes become the witness, with origin ATTEMPT and one confirmation (R133, R135). -/
def Entry.takeWitness (e : Entry) : Entry := { e with origin := .attempt, confirmations := 1 }

/-- A conflict is recorded (R136, R143). -/
def Entry.recordConflict (e : Entry) : Entry :=
  { e with conflicts := satInc 255 e.conflicts, conflictRecorded := true }

/-- The entry record after a CRC-good attempt of these bytes meets the witness (R133 to R136). -/
def Entry.meetWitness (e : Entry) (witness : Option (List Byte)) (bytes : List Byte) : Entry :=
  match witness with
  | none => e.takeWitness
  | some w =>
    if bytes = w then { e with confirmations := satInc 15 e.confirmations }
    else if e.confirmations = 0 then { e.takeWitness with replacements := satInc 255 e.replacements }
    else e.recordConflict

/-- The witness bytes after a CRC-good attempt (R133 to R136). -/
def witnessAfter (e : Entry) (witness : Option (List Byte)) (bytes : List Byte) : Option (List Byte) :=
  match witness with
  | none => some bytes
  | some w => if bytes = w then some w else if e.confirmations = 0 then some bytes else some w

/-! ## The engine's merge -/

/-- The engine, in MERGE, writes the candidate lists of the positions up to `upTo` that it has not yet written
(R120). -/
def State.advanceMerge (s : State) (h : Hand) (upTo : Nat) : State :=
  match Table.get s.slots h.entry with
  | none => s
  | some x =>
    let hi := min upTo (h.attempt.dataLength + 2)
    { s.setSlot h.entry
        { x with
          lists :=
            mergeRange (byteWeight s.engine.bonus h.attempt.crcGood) s.engine.written hi 0 x.lists h.attempt.bytes
              h.attempt.confidences } with
      engine := { s.engine with written := max s.engine.written hi } }

/-- Steps 2 to 4 of R120 for the entry in hand: the counts, the witness, and the engine's move to EVALUATION. -/
def State.endMerge (s : State) (h : Hand) : State :=
  match Table.get s.entries h.entry, Table.get s.slots h.entry with
  | some e, some x =>
    let e1 := e.countMerge h.attempt.crcGood
    let e2 := if h.attempt.crcGood then e1.meetWitness x.witness h.attempt.bytes else e1
    let x2 :=
      if h.attempt.crcGood then { x with witness := witnessAfter e x.witness h.attempt.bytes } else x
    { (s.setEntry h.entry e2).setSlot h.entry x2 with engine := { s.engine with phase := .evaluation } }
  | _, _ => s

end Sys2Proof.Machine
end

