-- ==== Sys2Proof/Machine/Arbitration.lean ====
section
/-! DEFINITION. Arbitration and grants (R85 to R92), and the engine's work at a grant: classification, discards,
allocation and the latched settings (R103 to R110, R119). -/

namespace Sys2Proof.Machine

/-! ## The arbiter -/

/-- The winner of an arbitration: the first lane with a non-empty queue, by number in fixed mode (R89) or in the
rotation order in rotating mode (R90). -/
def State.winner (s : State) : Option (Fin 4) :=
  (if s.settings.rotating then s.arbiter.order else [0, 1, 2, 3]).find? fun l => !(s.lanes[l]).queue.isEmpty

/-- The arbiter before a grant: a burst in progress goes on under its latched values (R91), and otherwise an
arbitration latches the mode and the burst and makes the winner the owner (R88). `none` when there is nothing to
grant. -/
def State.burst (s : State) : Option (Fin 4 × Arbiter) :=
  match s.arbiter.owner with
  | some l => some (l, s.arbiter)
  | none =>
    match s.winner with
    | some l =>
      some (l, { s.arbiter with
        owner := some l, served := 0, rotating := s.settings.rotating, burst := s.settings.grantBurst })
    | none => none

/-- The arbiter after a grant that leaves `left` attempts in the owner's queue: one more served, and the burst ends
when the latched burst is reached or the queue is left empty (R91, R92). -/
def Arbiter.afterGrant (a : Arbiter) (left : Nat) : Arbiter :=
  let b := { a with served := a.served + 1 }
  if a.burst ≤ a.served + 1 ∨ left = 0 then b.endBurst else b

/-! ## Classification -/

/-- An attempt discarded as surplus (R105): the volume's count, and the entry's when the sector has one. -/
def State.discardSurplus (s : State) (v : Fin 8) (entry : Option (Nat × Entry)) : State :=
  let x := s.volumes[v]
  let s1 := s.setVolume v { x with surplus := satInc 65535 x.surplus }
  match entry with
  | some (i, e) => s1.setEntry i { e with surplus := satInc 65535 e.surplus }
  | none => s1

/-- An attempt discarded as mismatched (R106). -/
def State.discardMismatch (s : State) (i : Nat) (e : Entry) : State :=
  s.setEntry i { e with mismatches := satInc 65535 e.mismatches }

/-- An attempt discarded for a full table (R109). -/
def State.discardTableFull (s : State) (v : Fin 8) : State :=
  let x := s.volumes[v]
  (s.setVolume v { x with tableFull := satInc 65535 x.tableFull }).raise .tableFull

/-- The attempt goes on to be merged into entry `i`: the entry becomes busy (R103) and the engine latches the
settings of the merge (R118, R119). -/
def State.startMerge (s : State) (i : Nat) (e : Entry) (a : Attempt) : State :=
  { s.setEntry i { e with busy := true } with
    engine :=
      { s.engine with
        phase := .merge
        hand := some ⟨a, i⟩
        bonus := s.settings.crcBonus
        margin := s.settings.contestMargin
        depth := s.settings.repairDepth
        quorum := s.settings.voteQuorum
        written := 0 } }

/-! ## Allocation -/

/-- A new entry's record (R107, R108). -/
def Entry.fresh (a : Attempt) (target : Nat) : Entry where
  key := a.key
  status := .opened
  busy := true
  dataLength := a.dataLength
  deleted := a.deleted
  target := target
  surplus := 0
  mismatches := 0
  merged := 0
  crcGood := 0
  origin := .none
  confirmations := 0
  conflicts := 0
  replacements := 0
  conflictRecorded := false
  voteConfirm := false
  generation := 0
  blank := 0
  contestedCount := 0
  contestedList := []
  repair := .notTried
  unsearched := 0

/-- A new entry's slot (R108). -/
def Slot.fresh (dataLength : Nat) : Slot where
  lists := List.replicate (dataLength + 2) []
  witness := none
  image := List.replicate (dataLength + 2) 0

/-- A new track record (R99). -/
def Track.fresh (k : TrackKey) : Track := ⟨k, 0, 0, 0, 0, false⟩

/-- The track record an allocation uses: the track's own, or the lowest-numbered free one, made new (R107). -/
def State.trackFor (s : State) (k : TrackKey) : Option (Nat × Track) :=
  match s.findTrack k with
  | some x => some x
  | none =>
    match Table.lowestFree s.tracks 512 0 with
    | some i => some (i, Track.fresh k)
    | none => none

/-- The table-low test of an allocation that has left `free` entries (R110). -/
def State.testLow (s : State) : State :=
  if s.freeEntries < s.settings.lowThreshold ∧ s.lowWarning = false then
    { s.raise .tableLow with lowWarning := true }
  else s

/-- Steps 3 and 4 of R107: track record `j` and entry `i` are allocated and the counts made. -/
def State.allocate (s : State) (j : Nat) (t : Track) (i : Nat) (a : Attempt) : State :=
  let v := s.volumes[a.key.track.volume]
  let s1 := s.setTrack j { t with live := t.live + 1 }
  let s2 := s1.setVolume a.key.track.volume { v with live := v.live + 1 }
  let s3 := (s2.setEntry i (Entry.fresh a s.settings.confirmTarget)).setSlot i (Slot.fresh a.dataLength)
  ({ s3 with freeEntries := s3.freeEntries - 1 }).testLow

/-- An attempt for a sector without an entry: allocation and merge, or a discard for a full table (R107, R109). -/
def State.accommodate (s : State) (a : Attempt) : State :=
  match s.trackFor a.key.track with
  | none => s.discardTableFull a.key.track.volume
  | some (j, t) =>
    match Table.lowestFree s.entries 4096 0 with
    | none => s.discardTableFull a.key.track.volume
    | some i => (s.allocate j t i a).startMerge i (Entry.fresh a s.settings.confirmTarget) a

/-- The classification of a granted attempt, in the order of R104. -/
def State.receive (s : State) (a : Attempt) : State :=
  if s.isReleased a.key then s.discardSurplus a.key.track.volume none
  else
    match s.findEntry a.key with
    | some (i, e) =>
      if e.status = .settled ∨ e.status = .conflict then s.discardSurplus a.key.track.volume (some (i, e))
      else if a.dataLength ≠ e.dataLength ∨ a.deleted ≠ e.deleted then s.discardMismatch i e
      else s.startMerge i e a
    | none => s.accommodate a

/-- One grant (R91): with the engine idle, the head of the owner's queue goes to the engine and is classified. -/
def State.grantOne (s : State) : State :=
  if s.engine.busy then s
  else
    match s.burst with
    | none => s
    | some (l, arb) =>
      match (s.lanes[l]).queue with
      | [] => s
      | a :: rest =>
        { s.setLane l { s.lanes[l] with queue := rest } with arbiter := arb.afterGrant rest.length }.receive a

end Sys2Proof.Machine
end

