-- ==== Sys2Proof/Machine/Crc.lean ====
section
/-! DEFINITION. The CRC of R20 and R21, and how cells form bytes (R6 to R9, R47). -/

namespace Sys2Proof.Machine

/-- One bit enters the CRC register: shift left, and exclusive-OR 1021h if the bit and the former most
significant bit differ (R20). -/
def crcBit (r : Word) (b : Bool) : Word :=
  if r.getLsbD 15 != b then (r <<< 1) ^^^ 0x1021#16 else r <<< 1

/-- One byte enters the register, most significant bit first (R20). -/
def crcByte (r : Word) (v : Byte) : Word :=
  [7, 6, 5, 4, 3, 2, 1, 0].foldl (fun r i => crcBit r (v.getLsbD i)) r

/-- The register after a run of bytes (R20). -/
def crcRun (preset : Word) (bytes : List Byte) : Word := bytes.foldl crcByte preset

/-- The CRC mark count in force: 0 under GCR, the stored count under FM and MFM (R3). -/
def Profile.crcMarksInForce (p : Profile) : Nat :=
  match p.encoding with
  | .gcr => 0
  | _ => p.crcMarkCount

/-- A field's CRC result: the run over the copies of the mark value, the field mark byte and the field's bytes,
CRC bytes included, leaves the residue 0000h (R20, R21, R139). -/
def Profile.fieldGood (p : Profile) (mark : Byte) (bytes : List Byte) : Bool :=
  crcRun p.crcPreset (List.replicate p.crcMarksInForce p.markValue ++ mark :: bytes) == 0

/-- The largest and smallest cell counts per interval that an encoding allows (R6). -/
def Encoding.maxCells : Encoding → Nat
  | .mfm => 4
  | _ => 3

/-- See `Encoding.maxCells`. -/
def Encoding.minCells : Encoding → Nat
  | .mfm => 2
  | _ => 1

/-- Cells of one byte (R7, R8). -/
def Encoding.cellsPerByte : Encoding → Nat
  | .gcr => 10
  | _ => 16

/-- The GCR group table (R8): the nibble of a 5-cell group, first cell leftmost, or none for a code violation
(R9). -/
def gcrNibble : List Bool → Option (BitVec 4)
  | [true, true, false, false, true] => some 0x0
  | [true, true, false, true, true] => some 0x1
  | [true, false, false, true, false] => some 0x2
  | [true, false, false, true, true] => some 0x3
  | [true, true, true, false, true] => some 0x4
  | [true, false, true, false, true] => some 0x5
  | [true, false, true, true, false] => some 0x6
  | [true, false, true, true, true] => some 0x7
  | [true, true, false, true, false] => some 0x8
  | [false, true, false, false, true] => some 0x9
  | [false, true, false, true, false] => some 0xA
  | [false, true, false, true, true] => some 0xB
  | [true, true, true, true, false] => some 0xC
  | [false, true, true, false, true] => some 0xD
  | [false, true, true, true, false] => some 0xE
  | [false, true, true, true, true] => some 0xF
  | _ => none

/-- The data cells of FM and MFM: the second cell of each pair (R7). -/
def dataCells : List RecordedCell → List Bool
  | _ :: d :: rest => d.one :: dataCells rest
  | _ => []

/-- A byte from bits, most significant first. -/
def byteOfBits (bits : List Bool) : Byte := bits.foldl (fun v b => (v <<< 1) ||| (if b then 1#8 else 0#8)) 0#8

/-- The smallest confidence of a list of cells, at most 15 (R47). -/
def leastConfidence (cells : List RecordedCell) : Nat := cells.foldl (fun m c => min m c.confidence) 15

/-- A byte decoded from its cells: its value, its confidence and its code violations (R7 to R9, R47). -/
structure DecodedByte where
  value : Byte
  confidence : Nat
  violations : Nat
  deriving DecidableEq, Repr

/-- Decode the cells of one byte, first cell first. A violating GCR group stands for nibble 0 and forces
confidence 0 (R9). -/
def decodeByte (e : Encoding) (cells : List RecordedCell) : DecodedByte :=
  match e with
  | .gcr =>
    let hi := gcrNibble ((cells.take 5).map (·.one))
    let lo := gcrNibble ((cells.drop 5).map (·.one))
    let bad := (if hi.isNone then 1 else 0) + (if lo.isNone then 1 else 0)
    { value := (hi.getD 0) ++ (lo.getD 0)
      confidence := if bad = 0 then leastConfidence cells else 0
      violations := bad }
  | _ => { value := byteOfBits (dataCells cells), confidence := leastConfidence cells, violations := 0 }

end Sys2Proof.Machine
end

