-- ==== Sys2Proof/Machine/Evaluation.lean ====
section
/-! DEFINITION. The evaluation (R137 to R155): the voted image, the contested set, the witness, the repair search,
the status and what follows from it. -/

namespace Sys2Proof.Machine

/-! ## The vote -/

/-- The voted image: the head of every list, 00h at a blank position (R138). -/
def votedImage (lists : List (List Candidate)) : List Byte :=
  lists.map fun l => match l with | [] => 0 | c :: _ => c.value

/-- The blank count (R138). -/
def blankCount (lists : List (List Candidate)) : Nat := (lists.filter List.isEmpty).length

/-- The mark the entry's images are checked under (R139). -/
def Profile.entryMark (p : Profile) (deleted : Bool) : Byte := if deleted then p.deletedMark else p.dataMark

/-- An image's CRC result (R139). -/
def Profile.imageGood (p : Profile) (deleted : Bool) (image : List Byte) : Bool :=
  p.fieldGood (p.entryMark deleted) image

/-- Insert a margin and position into the contested set: smallest margin first, and before equal margins, which
belong to higher positions (R140). -/
def insertContested (m pos : Nat) : List (Nat × Nat) → List (Nat × Nat)
  | [] => [(m, pos)]
  | x :: t => if m ≤ x.1 then (m, pos) :: x :: t else x :: insertContested m pos t

/-- The contested positions of lists that begin at position `pos`, with their margins, in the order of R140. -/
def contestedFrom (margin : Nat) : Nat → List (List Candidate) → List (Nat × Nat)
  | _, [] => []
  | pos, l :: ls =>
    let rest := contestedFrom margin (pos + 1) ls
    match l with
    | a :: b :: _ => if a.weight - b.weight ≤ margin then insertContested (a.weight - b.weight) pos rest else rest
    | _ => rest

/-- The contested set K (R140). -/
def contestedSet (margin : Nat) (lists : List (List Candidate)) : List Nat :=
  (contestedFrom margin 0 lists).map (·.2)

/-! ## The repair search -/

/-- The second candidate's value at a position. -/
def secondValue (lists : List (List Candidate)) (pos : Nat) : Byte :=
  match lists.getD pos [] with
  | _ :: b :: _ => b.value
  | _ => 0

/-- Trial image `t` over the positions `ks`: bit j of `t` sets the byte at the j-th of them to the second
candidate (R147). -/
def trialImage (lists : List (List Candidate)) : List Nat → Nat → List Byte → List Byte
  | [], _, image => image
  | k :: ks, t, image =>
    trialImage lists ks (t / 2) (if t % 2 = 1 then image.set k (secondValue lists k) else image)

/-- The good trial images, trials 1 to 2^n − 1 in order (R147). -/
def goodTrials (p : Profile) (deleted : Bool) (lists : List (List Candidate)) (ks : List Nat) : List (List Byte) :=
  ((List.range (2 ^ ks.length - 1)).map fun t => trialImage lists ks (t + 1) (votedImage lists)).filter
    (p.imageGood deleted)

/-! ## The witness and the image -/

/-- What an evaluation decides about the witness and the image (R141 to R148). -/
structure Decision where
  witness : Option (List Byte)
  origin : Origin
  confirmations : Nat
  voteConfirm : Bool
  conflictRecorded : Bool
  replacements : Nat
  conflicts : Nat
  image : List Byte
  repair : Repair
  unsearched : Nat
  deriving DecidableEq, Repr

/-- The decision that leaves the witness state as it stood. -/
def Entry.unchanged (e : Entry) (witness : Option (List Byte)) (image : List Byte) : Decision where
  witness := witness
  origin := e.origin
  confirmations := e.confirmations
  voteConfirm := e.voteConfirm
  conflictRecorded := e.conflictRecorded
  replacements := e.replacements
  conflicts := e.conflicts
  image := image
  repair := .notTried
  unsearched := 0

/-- Weigh the vote against the witness `w` (R142, R143). `good` says that there is no blank position and the
voted image checks. -/
def Entry.weighVote (e : Entry) (quorum : Nat) (w voted : List Byte) (good : Bool) : Decision :=
  let same := e.unchanged (some w) w
  if !good || decide (e.merged < quorum) then same
  else if voted = w then
    if e.voteConfirm then same
    else { same with confirmations := satInc 15 e.confirmations, voteConfirm := true }
  else if e.confirmations = 0 then
    { e.unchanged (some voted) voted with
      origin := .vote, confirmations := 1, voteConfirm := true, replacements := satInc 255 e.replacements }
  else { same with conflicts := satInc 255 e.conflicts, conflictRecorded := true }

/-- Form a witness from a good vote (R145). -/
def Entry.formWitness (e : Entry) (quorum : Nat) (voted : List Byte) : Decision :=
  { e.unchanged (some voted) voted with
    origin := .vote
    confirmations := if quorum ≤ e.merged then 1 else 0
    voteConfirm := if quorum ≤ e.merged then true else e.voteConfirm }

/-- The repair search for a bad vote without a witness (R147, R148). -/
def Entry.repairSearch (e : Entry) (p : Profile) (lists : List (List Candidate)) (k : List Nat) (depth : Nat) :
    Decision :=
  let n := min k.length depth
  let kept := e.unchanged none (votedImage lists)
  if n = 0 then { kept with unsearched := k.length }
  else
    match goodTrials p e.deleted lists (k.take n) with
    | [] => { kept with repair := .noneFound, unsearched := k.length - n }
    | [image] =>
      { e.unchanged (some image) image with
        origin := .repair, confirmations := 0, repair := .accepted, unsearched := k.length - n }
    | _ => { kept with repair := .ambiguous, unsearched := k.length - n }

/-- The course of R141. -/
def Entry.decide (e : Entry) (p : Profile) (x : Slot) (margin depth quorum : Nat) : Decision :=
  let voted := votedImage x.lists
  let full := blankCount x.lists == 0
  let good := full && p.imageGood e.deleted voted
  match x.witness with
  | some w => e.weighVote quorum w voted good
  | none =>
    if !full then e.unchanged none voted
    else if good then e.formWitness quorum voted
    else e.repairSearch p x.lists (contestedSet margin x.lists) depth

/-- The status an evaluation gives (R152). -/
def Decision.status (d : Decision) (target : Nat) : Status :=
  if d.conflictRecorded then .conflict
  else if d.witness.isSome then (if target ≤ d.confirmations then .settled else .provisional)
  else .opened

/-- The entry record an evaluation writes (R150, R151). -/
def Entry.evaluated (e : Entry) (d : Decision) (lists : List (List Candidate)) (k : List Nat) : Entry :=
  { e with
    origin := d.origin
    confirmations := d.confirmations
    voteConfirm := d.voteConfirm
    conflictRecorded := d.conflictRecorded
    replacements := d.replacements
    conflicts := d.conflicts
    blank := blankCount lists
    contestedCount := k.length
    contestedList := k.take 8
    repair := d.repair
    unsearched := d.unsearched
    status := d.status e.target
    generation := (e.generation + 1) % 256
    busy := false }

/-! ## What follows a change of status -/

/-- Store a track record whose counts have changed; when its settled count plus released count has reached the
volume's sectors per track for the first time, set the done flag, count the track and raise TRACK_DONE (R101). -/
def State.noteTrack (s : State) (i : Nat) (t : Track) : State :=
  let v := s.volumes[t.key.volume]
  if !t.done && decide (v.sectorsPerTrack ≤ t.settled + t.released) then
    ((s.setTrack i { t with done := true }).setVolume t.key.volume { v with tracksDone := v.tracksDone + 1 }).raise
      .trackDone
  else s.setTrack i t

/-- An entry of key `k` enters SETTLED at the evaluation of an attempt of lane `l` (R154). -/
def State.noteSettled (s : State) (k : SectorKey) (l : Fin 4) : State :=
  let v := s.volumes[k.track.volume]
  let lane := s.lanes[l]
  let s1 :=
    ((s.setVolume k.track.volume { v with settled := v.settled + 1 }).setLane l
      { lane with counts := { lane.counts with settledByPass := satInc 255 lane.counts.settledByPass } }).raise
      .settled
  match s.findTrack k.track with
  | some (i, t) => s1.noteTrack i { t with settled := t.settled + 1 }
  | none => s1

/-- The counts and events of a change of status from `old` to `new` (R154, R155). -/
def State.noteStatus (s : State) (k : SectorKey) (l : Fin 4) (old new : Status) : State :=
  if old = new then s
  else
    match new with
    | .settled => s.noteSettled k l
    | .conflict => s.raise .conflict
    | _ => s

/-- The engine returns to IDLE; its latched settings keep their values (R150, log entry 11). -/
def Engine.release (e : Engine) : Engine := { e with phase := .idle, hand := none, written := 0 }

/-- The evaluation completion for the entry in hand (R150). -/
def State.completeEvaluation (s : State) (h : Hand) : State :=
  match Table.get s.entries h.entry, Table.get s.slots h.entry with
  | some e, some x =>
    let d := e.decide (s.profileOf e.key.track.volume) x s.engine.margin s.engine.depth s.engine.quorum
    let e' := e.evaluated d x.lists (contestedSet s.engine.margin x.lists)
    let s1 := (s.setEntry h.entry e').setSlot h.entry { x with witness := d.witness, image := d.image }
    let s2 := s1.noteStatus e.key h.attempt.lane e.status e'.status
    { s2 with engine := s.engine.release }
  | _, _ => s

end Sys2Proof.Machine
end

