-- ==== Sys2Proof/Machine/Separator.lean ====
section
/-! DEFINITION. The data separator (R38 to R45) and the arithmetic of the cell clock (R24 to R33). -/

namespace Sys2Proof.Machine

/-! ## The cell clock -/

/-- Half the nominal revolution period, floored: the bound below which a period is a glitch (R26). -/
def glitchBound (n : Nat) : Nat := n / 2

/-- Three halves of the nominal revolution period, floored: the bound above which a period is a fault (R27). -/
def faultBound (n : Nat) : Nat := 3 * n / 2

/-- The index timer: whole index microseconds since its last restart (R24). -/
def Timing.indexTimer (t : Timing) : Nat := t.timerTicks / 80

/-- Steps 2 and 3 of R30: Cnom × Pavg ÷ N, rounded with a half upward. -/
def cautoOfPeriods (cnom n : Nat) (history : List Nat) : Nat :=
  let pavg := history.sum / history.length
  (2 * (cnom * pavg) + n) / (2 * n)

/-- R31: the bounds within one sixteenth of the nominal cell period. -/
def cautoLow (cnom : Nat) : Nat := cnom - cnom / 16

/-- See `cautoLow`. -/
def cautoHigh (cnom : Nat) : Nat := cnom + cnom / 16

/-- A value brought into a range takes the nearer bound. -/
def clampNat (lo hi v : Nat) : Nat := if v < lo then lo else if hi < v then hi else v

/-- R30 to R33: recompute Cauto from the history, set the speed-clamp flag when the clamp changes the value,
and let Ceff follow unless the descriptor carries an override. -/
def Timing.recompute (p : Profile) (cellOverride : Option Nat) (t : Timing) : Timing :=
  let raw := cautoOfPeriods p.cellPeriod p.revPeriod t.history
  let cauto :=
    if t.history = [] then p.cellPeriod
    else clampNat (cautoLow p.cellPeriod) (cautoHigh p.cellPeriod) raw
  { t with
    cauto := cauto
    speedClamp := t.speedClamp || (decide (t.history ≠ []) && decide (cauto ≠ raw))
    ceff := cellOverride.getD cauto }

/-! ## The separator -/

/-- The half-width of the tolerance band (R44). -/
def bandHalf (ceff tolerance : Nat) : Nat := ceff * (tolerance + 1) / 32

/-- Clamp the current cell period into the band around the effective period (R44). -/
def clampBand (ceff tolerance : Nat) (v : Int) : Nat :=
  let lo : Int := (ceff : Int) - bandHalf ceff tolerance
  let hi : Int := (ceff : Int) + bandHalf ceff tolerance
  (if v < lo then lo else if hi < v then hi else v).toNat

/-- The raw cell count (R40), for an interval of `i` ticks and a current cell period `c`. -/
def rawCells (i c : Nat) (bias : Int) : Int :=
  ((16 * i : Nat) + ((c / 2 : Nat) : Int) - (bias * c) / 16) / (c : Int)

/-- The cell count: the raw count clamped to the allowed set (R41). -/
def cellCount (e : Encoding) (kraw : Int) : Nat :=
  if kraw < e.minCells then e.minCells else if (e.maxCells : Int) < kraw then e.maxCells else kraw.toNat

/-- The raw count lies in the allowed set (R41). -/
def inSet (e : Encoding) (kraw : Int) : Bool := decide ((e.minCells : Int) ≤ kraw) && decide (kraw ≤ e.maxCells)

/-- The deviation of an interval counted as `k` cells (R42). -/
def deviation (i c k : Nat) : Int := (16 * i : Nat) - ((k * c : Nat) : Int)

/-- The confidence of an interval (R41, R42). -/
def intervalConfidence (e : Encoding) (kraw : Int) (c : Nat) (d : Int) : Nat :=
  if inSet e kraw && decide (2 * d.natAbs < c) then 15 * (c - 2 * d.natAbs) / c else 0

/-- The correction: the deviation per cell scaled by the gain, truncated toward zero; none for gain 0 (R43). -/
def correction (gain k : Nat) (d : Int) : Int := if gain = 0 then 0 else d.tdiv ((k * 2 ^ (gain + 1) : Nat) : Int)

/-- What the separator delivers for an interval (R39): the raw cell count, the cell count, the confidence and
the current cell period after correction and band clamp. -/
structure Computed where
  kraw : Int
  k : Nat
  confidence : Nat
  ccur : Nat
  deriving DecidableEq, Repr

/-- The computation of one interval, in the order of R40 to R44. -/
def Separator.compute (x : Separator) (e : Encoding) (ceff i : Nat) : Computed :=
  let kraw := rawCells i x.ccur x.bias
  let k := cellCount e kraw
  let d := deviation i x.ccur k
  { kraw := kraw
    k := k
    confidence := intervalConfidence e kraw x.ccur d
    ccur := clampBand ceff x.tolerance ((x.ccur : Int) + correction x.gain k d) }

/-- The cells of an interval: k−1 zero cells and a one cell, all of one confidence (R6, R46). -/
def intervalCells (k confidence : Nat) : List RecordedCell :=
  List.replicate (k - 1) ⟨false, confidence⟩ ++ [⟨true, confidence⟩]

end Sys2Proof.Machine
end

