-- ==== Sys2Proof/Machine/Framer.lean ====
section
/-! DEFINITION. The framer (R10 to R19): marks, ID fields, data fields, sync loss, and the two requests that end
its work. -/

namespace Sys2Proof.Machine

/-- A completed field pair (R17): the ID held, and the data field read after it. -/
structure FieldPair where
  id : HeldId
  deleted : Bool
  crcGood : Bool
  bytes : List Byte
  confidences : List Nat
  deriving DecidableEq, Repr

/-- What one cell does to the framer: its new state, the lane report's counts and, when a data field completes,
the field pair it reports. -/
structure FramerStep where
  framer : Framer
  counts : Counts
  pair : Option FieldPair
  deriving DecidableEq, Repr

/-! ## Entering the states -/

/-- HUNT, with no ID held and the hunt counts 0 (R10 to R13). DESIGN CHOICE (log entry 26): the gap count, which R15 gives
for GAP and the marks met in it, is 0, and the run-violation count stands. -/
def Framer.enterHunt (f : Framer) : Framer :=
  { f with
    mode := .hunt, finishing := false, matchCount := 0, sinceMatch := 0, oneRun := 0, heldId := none
    gapCount := 0, markFromGap := false, cells := [], bytes := [], confidences := [] }

/-- GAP, with the hunt counts 0; the ID held and the gap count are the caller's (R13, R14, R15). DESIGN CHOICE (log entry
25): at the first entry, from ID, the run count of R12 too starts at 0. -/
def Framer.enterGap (f : Framer) : Framer :=
  { f with
    mode := .gap, matchCount := 0, sinceMatch := 0, oneRun := 0, markFromGap := false, cells := []
    bytes := [], confidences := [] }

/-- STOPPED: the field in progress and any ID held are dropped (R19). DESIGN CHOICE (log entry 26): the gap count is 0, and
the other counts stand. -/
def Framer.stop (f : Framer) : Framer :=
  { f with
    mode := .stopped, finishing := false, heldId := none, gapCount := 0, markFromGap := false, cells := []
    bytes := [], confidences := [] }

/-- Capture starts: HUNT with the hunt counts 0 and the cell history emptied (R10, R11). DESIGN CHOICE (log entry 26): the
run-violation count, which R18 sets to 0 at the entry to MARK, is set to 0 here too. -/
def Framer.start (f : Framer) : Framer :=
  { f.enterHunt with cellHistory := 0, historyLength := 0, runViolations := 0 }

/-- The finish request (R19). -/
def Framer.finish (f : Framer) : Framer :=
  match f.mode with
  | .stopped => f
  | .hunt => f.stop
  | .gap => f.stop
  | .mark => { f with finishing := true }
  | .id => { f with finishing := true }
  | .data => { f with finishing := true }

/-- The framer is inside a field (R10). -/
def Framer.insideField (f : Framer) : Bool :=
  match f.mode with
  | .mark => true
  | .id => true
  | .data => true
  | _ => false

/-- MARK, with the cells of the field mark byte taken so far (R11, R12, R18). -/
def Framer.enterMark (f : Framer) (cells : List RecordedCell) : Framer :=
  { f with mode := .mark, markFromGap := f.mode == .gap, runViolations := 0, cells := cells, bytes := [], confidences := [] }

/-! ## Hunting for a mark -/

/-- A cell joins the cell history, which keeps the last 16 (R11). -/
def Framer.push (f : Framer) (one : Bool) : Framer :=
  { f with
    cellHistory := (f.cellHistory <<< 1) ||| (if one then 1#16 else 0#16)
    historyLength := if f.historyLength < 16 then f.historyLength + 1 else 16 }

/-- The last 16 cells are the mark cell pattern (R11). -/
def Framer.patternSeen (p : Profile) (f : Framer) : Bool :=
  f.historyLength == 16 && f.cellHistory == p.markPattern

/-- A counted match: MARK when the count reaches the mark repeat count (R11). -/
def Framer.countMatch (p : Profile) (f : Framer) : Framer :=
  let g := { f with matchCount := f.matchCount + 1, sinceMatch := 0 }
  if p.markRepeat ≤ f.matchCount + 1 then g.enterMark [] else g

/-- The mark search at one cell, already pushed into the history (R11 under FM and MFM, R12 under GCR). -/
def Framer.hunt (p : Profile) (c : RecordedCell) (f : Framer) : Framer :=
  match p.encoding with
  | .gcr =>
    if c.one then { f with oneRun := f.oneRun + 1 }
    else if 10 ≤ f.oneRun then f.enterMark [c]
    else { f with oneRun := 0 }
  | _ =>
    if f.matchCount = 0 then (if f.patternSeen p then f.countMatch p else f)
    else if f.sinceMatch + 1 < 16 then { f with sinceMatch := f.sinceMatch + 1 }
    else if f.patternSeen p then f.countMatch p
    else { f with matchCount := 0, sinceMatch := 0 }

/-- The gap limit in cells (R16). -/
def Profile.gapLimitCells (p : Profile) : Nat := p.gapLimit * p.encoding.cellsPerByte

/-! ## Fields -/

/-- The ID byte at a position; a position at or beyond the ID length reads 00h (R3). -/
def Profile.idByte (p : Profile) (bytes : List Byte) (pos : Nat) : Nat :=
  if pos < p.idLength then (bytes.getD pos 0).toNat else 0

/-- The data length a size code decides, with its legality (R14). -/
def Profile.dataLength (p : Profile) (sizeCode : Nat) : Nat :=
  if p.lengthCode = 0 then (if sizeCode < 4 then 128 * 2 ^ sizeCode else 128) else 64 * 2 ^ p.lengthCode

/-- The size code is illegal: data length code 0 and a code of 4 or more (R14). -/
def Profile.illegalSize (p : Profile) (sizeCode : Nat) : Bool :=
  decide (p.lengthCode = 0) && decide (4 ≤ sizeCode)

/-- The ID held after an ID field of these bytes, CRC bytes left out (R3, R14). -/
def Profile.extractId (p : Profile) (good : Bool) (bytes : List Byte) (confidences : List Nat) : HeldId :=
  let size :=
    match p.sizePos with
    | some k => p.idByte bytes k
    | none => 0
  { cylinder :=
      if p.cylWidth = 2 then 256 * p.idByte bytes p.cylPos + p.idByte bytes (p.cylPos + 1)
      else p.idByte bytes p.cylPos
    head := p.idByte bytes p.headPos
    sector := p.idByte bytes p.sectorPos
    sizeCode := size
    illegalSize := p.illegalSize size
    crcGood := good
    dataLength := p.dataLength size
    bytes := bytes
    confidences := confidences }

/-- A count of the report rises by one when the condition holds; the 2-byte counts saturate at 65535 (R79). -/
def bumpWhen (b : Bool) (n : Nat) : Nat := if b then satInc 65535 n else n

/-- A stray mark (R13, R16, R19): counted, back to HUNT or GAP; an ID whose gap count has passed the limit
becomes an orphan; under a finish request the framer stops. -/
def Framer.strayMark (p : Profile) (f : Framer) (n : Counts) : FramerStep :=
  let late := f.markFromGap && decide (p.gapLimitCells < f.gapCount)
  { framer :=
      if f.finishing then f.stop
      else if f.markFromGap && !late then f.enterGap
      else f.enterHunt
    counts := { n with strayMarks := satInc 65535 n.strayMarks, orphanIds := bumpWhen late n.orphanIds }
    pair := none }

/-- The field mark byte is complete: it is compared with the marks in the order ID, data, deleted (R13). DESIGN CHOICE (log
entry 23): under GCR a byte whose violating first group decodes as nibble 0 is classified by that value, as R13 says, even
as a mark of high nibble 0, which R12 says the framer can never recognise. DESIGN CHOICE (log entry 26): in ID the gap
count is 0. -/
def Framer.markByte (p : Profile) (b : Byte) (f : Framer) (n : Counts) : FramerStep :=
  if b = p.idMark then
    { framer :=
        { f with mode := .id, fieldMark := b, heldId := none, gapCount := 0, markFromGap := false, cells := [], bytes := [], confidences := [] }
      counts := { n with orphanIds := bumpWhen f.markFromGap n.orphanIds }
      pair := none }
  else if f.markFromGap && (b == p.dataMark || b == p.deletedMark) then
    { framer :=
        { f with mode := .data, fieldMark := b, deletedField := b != p.dataMark, cells := [], bytes := [], confidences := [] }
      counts := n
      pair := none }
  else f.strayMark p n

/-- A byte of an ID field is complete; after the second CRC byte the ID is checked and held (R14, R19). -/
def Framer.idFieldByte (p : Profile) (b : DecodedByte) (f : Framer) (n : Counts) : FramerStep :=
  let bytes := b.value :: f.bytes
  let confs := b.confidence :: f.confidences
  if bytes.length < p.idLength + 2 then
    { framer := { f with cells := [], bytes := bytes, confidences := confs }, counts := n, pair := none }
  else
    let field := bytes.reverse
    let good := p.fieldGood f.fieldMark field
    let held := p.extractId good (field.take p.idLength) (confs.reverse.take p.idLength)
    { framer :=
        if f.finishing then f.stop
        else { f.enterGap with heldId := some held, gapCount := 0 }
      counts := { n with idCrcBad := bumpWhen (!good) n.idCrcBad }
      pair := none }

/-- A byte of a data field is complete; after the second CRC byte the field pair is reported (R17, R19). -/
def Framer.dataFieldByte (p : Profile) (b : DecodedByte) (f : Framer) (n : Counts) : FramerStep :=
  match f.heldId with
  | none => { framer := if f.finishing then f.stop else f.enterHunt, counts := n, pair := none }
  | some held =>
    let bytes := b.value :: f.bytes
    let confs := b.confidence :: f.confidences
    if bytes.length < held.dataLength + 2 then
      { framer := { f with cells := [], bytes := bytes, confidences := confs }, counts := n, pair := none }
    else
      { framer := if f.finishing then f.stop else f.enterHunt
        counts := n
        pair := some
          { id := held
            deleted := f.deletedField
            crcGood := p.fieldGood f.fieldMark bytes.reverse
            bytes := bytes.reverse
            confidences := confs.reverse } }

/-- The byte in progress is complete: it is decoded, its code violations counted (R9), and it goes to the field
it belongs to. DESIGN CHOICE (log entry 20): a violating group is counted when its byte is complete, so that the first
group of a byte that a sync loss or a stop request cuts short is not counted. -/
def Framer.byteDone (p : Profile) (cells : List RecordedCell) (f : Framer) (n : Counts) : FramerStep :=
  let b := decodeByte p.encoding cells
  let n' := { n with codeViolations := satAdd 65535 n.codeViolations b.violations }
  match f.mode with
  | .mark => f.markByte p b.value n'
  | .id => f.idFieldByte p b n'
  | .data => f.dataFieldByte p b n'
  | _ => { framer := f, counts := n', pair := none }

/-- A cell of a byte in progress (R7, R8). -/
def Framer.fieldCell (p : Profile) (c : RecordedCell) (f : Framer) (n : Counts) : FramerStep :=
  let cells := c :: f.cells
  if cells.length < p.encoding.cellsPerByte then
    { framer := { f with cells := cells }, counts := n, pair := none }
  else f.byteDone p cells.reverse n

/-- The framer takes one cell. In GAP, and in MARK entered from GAP, the cell is counted (R15), and the gap
limit is tested at each cell taken in GAP, before the mark search sees the cell (R16, log entry 8). -/
def Framer.takeCell (p : Profile) (c : RecordedCell) (f : Framer) (n : Counts) : FramerStep :=
  match f.mode with
  | .stopped => { framer := f, counts := n, pair := none }
  | .hunt => { framer := (f.push c.one).hunt p c, counts := n, pair := none }
  | .gap =>
    let g := { f.push c.one with gapCount := f.gapCount + 1 }
    if p.gapLimitCells < g.gapCount then
      { framer := g.enterHunt, counts := { n with orphanIds := satInc 65535 n.orphanIds }, pair := none }
    else { framer := g.hunt p c, counts := n, pair := none }
  | .mark =>
    let g := f.push c.one
    ({ g with gapCount := if f.markFromGap then f.gapCount + 1 else f.gapCount }).fieldCell p c n
  | .id => (f.push c.one).fieldCell p c n
  | .data => (f.push c.one).fieldCell p c n

/-! ## Judging an interval -/

/-- What the judgement of R18 leaves: the framer, the counts, and whether the field was lost. -/
structure Judged where
  framer : Framer
  counts : Counts
  lost : Bool
  deriving DecidableEq, Repr

/-- R18: a framer inside a field judges an interval by its raw cell count before it takes its cells. A dropout leaves the
run-violation count, any other count outside the set increases it, the third in a row included. A sync loss returns the
framer to HUNT or, while the last field finishes, makes it STOPPED (R19, R45). -/
def Framer.judge (p : Profile) (finishing : Bool) (kraw : Int) (f : Framer) (n : Counts) : Judged :=
  if f.insideField then
    if inSet p.encoding kraw then { framer := { f with runViolations := 0 }, counts := n, lost := false }
    else
      let dropout := decide ((2 * p.encoding.maxCells : Nat) < kraw)
      let g := { f with runViolations := if dropout then f.runViolations else f.runViolations + 1 }
      if dropout || decide (3 ≤ g.runViolations) then
        { framer := if finishing then g.stop else g.enterHunt
          counts := { n with syncLosses := satInc 65535 n.syncLosses }
          lost := true }
      else { framer := g, counts := n, lost := false }
  else { framer := f, counts := n, lost := false }

end Sys2Proof.Machine
end

