-- ==== Sys2Proof/Machine/Anchoring.lean ====
section
/-! DEFINITION. Attempts and anchoring (R73 to R77), the attempt queue's join and overrun (R83, R84), the end of
capture (R65 to R67) and the interval's way through a lane (R38 to R47). -/

namespace Sys2Proof.Machine

/-- What a lane reads from outside itself: its number, its profile and volume through the active descriptor
(R62), and the two settings read at anchoring (R74). -/
structure LaneEnv where
  number : Fin 4
  profile : Profile
  volume : Volume
  trustFloor : Nat
  seekLimit : Nat
  deriving DecidableEq, Repr

/-! ## The end of capture -/

/-- The interval measurement is closed while the framer is STOPPED (R38), and a lane in FINISHING whose framer
has become STOPPED enters DRAINING (R67). -/
def Lane.settleFraming (l : Lane) : Lane :=
  if l.framer.mode = .stopped then
    { l with interval := none, state := if l.state = .finishing then .draining else l.state }
  else l

/-- The ending cause is the first one taken (R65). -/
def Lane.recordCause (l : Lane) (c : PassOutcome) : Lane :=
  { l with cause := match l.cause with | none => some c | some d => some d }

/-- The framer takes a finish request (R19), after which the lane may already be DRAINING (R66, R67). -/
def Lane.requestFinish (l : Lane) : Lane := ({ l with framer := l.framer.finish }).settleFraming

/-- Capture ends with a finish request: the R-th edge and the NO_INDEX expiry in CAPTURING (R64, R66). -/
def Lane.endCapture (l : Lane) (c : PassOutcome) : Lane :=
  ({ l.recordCause c with state := .finishing }).requestFinish

/-! ## Attempts -/

/-- A completed attempt is offered to the lane's queue: it joins as the tail, or finds 6 attempts there and is
dropped as an overrun (R83, R84). -/
def Lane.offer (l : Lane) (a : Attempt) : Lane :=
  if l.queue.length < 6 then { l with queue := l.queue ++ [a] }
  else { l with counts := { l.counts with overruns := satInc 65535 l.counts.overruns } }

/-- A kept pair completes as an attempt, is counted and is offered to the queue (R73, R77). -/
def Lane.complete (env : LaneEnv) (d : Descriptor) (x : FieldPair) (l : Lane) : Lane :=
  Lane.offer
    { l with
      counts :=
        { l.counts with
          attempts := satInc 65535 l.counts.attempts
          dataCrcGood := bumpWhen x.crcGood l.counts.dataCrcGood } }
    { lane := env.number
      key := ⟨⟨d.volume, x.id.cylinder, x.id.head⟩, x.id.sector⟩
      dataLength := x.id.dataLength
      deleted := x.deleted
      crcGood := x.crcGood
      bytes := x.bytes
      confidences := x.confidences }

/-- The ID's cylinder and head are the descriptor's (R74, R76). -/
def Descriptor.onTrack (d : Descriptor) (h : HeldId) : Bool := h.cylinder == d.cylinder && h.head == d.head

/-- The ID's sector lies in the volume's geometry and its size code is legal (R74, R76). -/
def LaneEnv.inGeometry (env : LaneEnv) (h : HeldId) : Bool := env.volume.holdsSector h.sector && !h.illegalSize

/-- Every ID byte's confidence is at least the trust floor (R76). -/
def LaneEnv.trusts (env : LaneEnv) (h : HeldId) : Bool := h.confidences.all fun c => decide (env.trustFloor ≤ c)

/-- A seek mismatch is counted, and in CAPTURING ends capture at the limit; how many cells the framer takes before
the finish request reaches it is a free value (R66, R75, log entry 6). -/
def Lane.seekMismatch (env : LaneEnv) (l : Lane) : Lane :=
  let n := satInc 255 l.counts.seekMismatches
  let l' := { l with counts := { l.counts with seekMismatches := n } }
  if l.state = .capturing ∧ env.seekLimit ≤ n then 
    { l'.recordCause .seekMismatch with
      state := .finishing
      request := some (Config.finishDelay env.number.val l.freeCount)
      freeCount := l.freeCount + 1 }
  else l'

/-- The pass controller anchors a completed field pair (R74 to R76). -/
def Lane.anchor (env : LaneEnv) (d : Descriptor) (x : FieldPair) (l : Lane) : Lane :=
  if x.id.crcGood then
    if !d.onTrack x.id then l.seekMismatch env
    else if !env.inGeometry x.id then
      { l with counts := { l.counts with outOfGeometry := satInc 65535 l.counts.outOfGeometry } }
    else l.complete env d x
  else if d.onTrack x.id && env.inGeometry x.id && env.trusts x.id then l.complete env d x
  else { l with counts := { l.counts with unanchored := satInc 65535 l.counts.unanchored } }

/-! ## Intervals -/

/-- The framer takes one cell, and a pair it reports is anchored at once (R17, R74). -/
def Lane.takeCell (env : LaneEnv) (d : Descriptor) (c : RecordedCell) (l : Lane) : Lane :=
  let r := l.framer.takeCell env.profile c l.counts
  let l' := { l with framer := r.framer, counts := r.counts }
  match r.pair with
  | some x => l'.anchor env d x
  | none => l'

/-- A finish request on its way to the framer is one cell nearer (R66). -/
def Lane.requestNears (l : Lane) : Lane :=
  match l.request with
  | some (n + 1) => { l with request := some n }
  | _ => l

/-- A finish request on its way reaches the framer once no cell is left to wait for. Where the framer has found a mark
meanwhile, the field it introduces is the one to be finished, wherever within it the request arrives (R19, R66, log
entry 6). -/
def Lane.requestArrives (l : Lane) : Lane :=
  if l.request = some 0 ∨ (l.request.isSome = true ∧ l.framer.insideField = true) then
    ({ l with request := none }).requestFinish
  else l

/-- The cells of one interval, in order. A finish request on its way reaches a framer that goes on hunting once it has
taken the number of cells drawn for it (R66, log entry 6). -/
def Lane.takeCells (env : LaneEnv) (d : Descriptor) (cells : List RecordedCell) (l : Lane) : Lane :=
  cells.foldl (fun m c => (m.requestNears.takeCell env d c).requestArrives) l

/-- The framer judges an interval and takes its cells. A sync loss in FINISHING makes the framer STOPPED; one that
returns it to HUNT re-anchors the current cell period (R18, R19, R45). -/
def Lane.deliver (env : LaneEnv) (d : Descriptor) (x : Computed) (l : Lane) : Lane :=
  let j := l.framer.judge env.profile (l.framer.finishing || l.state == .finishing) x.kraw l.counts
  let l' := { l with framer := j.framer, counts := j.counts, separator := { l.separator with ccur := x.ccur } }
  if j.lost then
    if j.framer.mode = .hunt then { l' with separator := { l'.separator with ccur := l.timing.ceff } } else l'
  else Lane.takeCells env d (intervalCells x.k x.confidence) l'

/-- An interval of `i` ticks closes: the separator computes it, the framer takes it, and the next interval opens
unless the framer has become STOPPED (R38, R39). -/
def Lane.closeInterval (env : LaneEnv) (d : Descriptor) (i : Nat) (l : Lane) : Lane :=
  (Lane.deliver env d (l.separator.compute env.profile.encoding l.timing.ceff i)
    { l with interval := some 0 }).settleFraming

end Sys2Proof.Machine
end

