-- ==== Sys2Proof/Machine/Pass.lean ====
section
/-! DEFINITION. The pass controller's shared operations: time at a lane (R24, R38), the staging point (R35), the
variant schedule (R52 to R56), activation (R23, R36, R62), abort (R71) and the timers
that run out (R29, R38). -/

namespace Sys2Proof.Machine

/-- The index input is watched in ARMED, CAPTURING and FINISHING (R23). -/
def Lane.watched (l : Lane) : Bool :=
  match l.state with
  | .armed => true
  | .capturing => true
  | .finishing => true
  | _ => false

/-- `dt` capture-clock ticks pass at a lane whose nominal revolution period is `n`, and neither of its timers runs out:
a watched index timer advances and saturates at 2N index microseconds (R24), and an open interval grows to at most
8192 ticks (R38). -/
def Lane.elapse (n dt : Nat) (l : Lane) : Lane :=
  { l with
    timing :=
      if l.watched then { l.timing with timerTicks := min (160 * n) (l.timing.timerTicks + dt) } else l.timing
    interval := l.interval.map fun k => min 8192 (k + dt) }

/-- The profile of the lane's active descriptor's volume; without a descriptor nothing is timed, and the reset
profile stands in (log entry 12). -/
def State.laneProfile (s : State) (l : Lane) : Profile :=
  match l.active with
  | some d => s.profileOf d.volume
  | none => Profile.reset

/-- What lane `i`, with active descriptor `d`, reads from outside itself. -/
def State.laneEnv (s : State) (i : Fin 4) (d : Descriptor) : LaneEnv where
  number := i
  profile := s.profileOf d.volume
  volume := s.volumes[d.volume]
  trustFloor := s.settings.trustFloor
  seekLimit := s.settings.seekLimit

/-! ## Schedule and preset -/

/-- Adoption of a pending staged copy (R54). -/
def ScheduleState.adopt (x : ScheduleState) : ScheduleState :=
  { x with active := x.staged, pending := false, slotPosition := 0, revInSlot := 0 }

/-- The slot advance at an edge that closes a captured revolution (R56). -/
def ScheduleState.advance (x : ScheduleState) : ScheduleState :=
  if x.revInSlot + 1 = x.active.frameLength then
    { x with revInSlot := 0, slotPosition := (x.slotPosition + 1) % x.active.slotCount }
  else { x with revInSlot := x.revInSlot + 1 }

/-- Step 4 of R35: adopt a pending copy, else advance if the edge closes a captured revolution and the pass
uses the schedule. -/
def ScheduleState.stage (closes usesSchedule : Bool) (x : ScheduleState) : ScheduleState :=
  if x.pending then x.adopt else if closes && usesSchedule then x.advance else x

/-- The preset in force is decided (R55). -/
def Descriptor.decidePreset (d : Descriptor) (x : ScheduleState) : Fin 16 :=
  match d.preset with
  | some n => n
  | none => x.active.slots.toList.getD x.slotPosition 0

/-- Step 5 of R35: decide the preset in force and latch its parameters. -/
def Lane.latchPreset (presets : Vector Preset 16) (d : Descriptor) (l : Lane) : Lane :=
  let n := d.decidePreset l.schedule
  { l with
    separator :=
      { l.separator with
        presetInForce := n
        gain := (presets[n]).gain
        tolerance := (presets[n]).tolerance
        bias := (presets[n]).bias } }

/-! ## Index edges -/

/-- The four cases of an index edge (2.2). -/
inductive EdgeKind where
  | first
  | glitch
  | fault
  | good
  deriving DecidableEq, Repr

/-- Classify an edge by its period, the value of the index timer (R24 to R28). -/
def Timing.classify (n : Nat) (t : Timing) : EdgeKind :=
  if !t.edgeSeen then .first
  else if t.indexTimer < glitchBound n then .glitch
  else if faultBound n < t.indexTimer then .fault
  else .good

/-- Step 1 of R35 at an accepted edge: the timer restarts, and the history and the last measured period are
updated (R25, R27, R28). -/
def Timing.accept (k : EdgeKind) (t : Timing) : Timing :=
  match k with
  | .good =>
    { t with timerTicks := 0, edgeSeen := true, lastPeriod := t.indexTimer, history := (t.indexTimer :: t.history).take 4 }
  | .fault => { t with timerTicks := 0, edgeSeen := true, lastPeriod := t.indexTimer }
  | .first => { t with timerTicks := 0, edgeSeen := true }
  | .glitch => t

/-- Step 3 of R35: in ARMED the edge counts toward settle and may start capture (R34, R63); in CAPTURING it
closes a captured revolution, and the R-th ends capture (R64); in FINISHING it is not counted (R37). -/
def Lane.countEdge (d : Descriptor) (l : Lane) : Lane :=
  match l.state with
  | .armed =>
    let l' := { l with timing := { l.timing with settleCount := l.timing.settleCount + 1 } }
    if d.settle + 1 ≤ l.timing.settleCount + 1 then
      { l' with state := .capturing, revolutions := 0, framer := l.framer.start, interval := some 0 }
    else l'
  | .capturing =>
    let l' := { l with revolutions := l.revolutions + 1 }
    if d.revolutions ≤ l.revolutions + 1 then l'.endCapture .complete else l'
  | _ => l

/-- Step 6 of R35: Ccur is set to Ceff by the edge that starts capture, left alone by an edge that leaves the lane
in ARMED, and otherwise clamped into the band. -/
def Lane.anchorCell (before : LaneState) (l : Lane) : Lane :=
  match before, l.state with
  | .armed, .armed => l
  | .armed, _ => { l with separator := { l.separator with ccur := l.timing.ceff } }
  | _, _ =>
    { l with
      separator :=
        { l.separator with ccur := clampBand l.timing.ceff l.separator.tolerance l.separator.ccur } }

/-- The staging point: what an accepted edge does, in the order of R35. -/
def Lane.acceptEdge (p : Profile) (presets : Vector Preset 16) (d : Descriptor) (k : EdgeKind) (l : Lane) : Lane :=
  let l1 :=
    { l with
      timing := ((l.timing.accept k).recompute p d.cellOverride)
      counts :=
        { l.counts with
          indexFaults := if k = EdgeKind.fault then satInc 255 l.counts.indexFaults else l.counts.indexFaults } }
  let l3 := l1.countEdge d
  let l4 := { l3 with schedule := l3.schedule.stage (l.state == LaneState.capturing) d.preset.isNone }
  (l4.latchPreset presets d).anchorCell l.state

/-- An index edge at a lane with active descriptor `d` (R25 to R28): a glitch is counted, any other edge is
accepted. -/
def Lane.indexEdge (p : Profile) (presets : Vector Preset 16) (d : Descriptor) (l : Lane) : Lane :=
  match l.timing.classify p.revPeriod with
  | .glitch => { l with counts := { l.counts with indexGlitches := satInc 65535 l.counts.indexGlitches } }
  | k => l.acceptEdge p presets d k

/-! ## Activation, abort and completion -/

/-- Activation of a descriptor (R23, R36, R62). -/
def Lane.activate (p : Profile) (presets : Vector Preset 16) (d : Descriptor) (l : Lane) : Lane :=
  Lane.latchPreset presets d
    { l with
      state := .armed
      active := some d
      cause := none
      revolutions := 0
      timing := Timing.recompute p d.cellOverride ⟨0, false, [], 0, 0, 0, 0, false⟩
      schedule :=
        { (if l.schedule.pending then l.schedule.adopt else l.schedule) with slotPosition := 0, revInSlot := 0 }
      counts := Counts.zero }

/-- Activate `d` on lane `i`: the profile is that of the descriptor's volume (R62). -/
def State.activate (s : State) (i : Fin 4) (d : Descriptor) : State :=
  s.setLane i ((s.lanes[i]).activate (s.profileOf d.volume) s.presets d)

/-- ABORT PASS on a lane that is not IDLE (R71). -/
def Lane.abort (discardQueue clearChain : Bool) (l : Lane) : Lane :=
  let l1 := { l.recordCause .aborted with framer := l.framer.stop, interval := none, request := none, state := .draining }
  { l1 with
    queue := if discardQueue then [] else l.queue
    counts :=
      { l.counts with
        queueDiscards :=
          if discardQueue then satAdd 255 l.counts.queueDiscards l.queue.length else l.counts.queueDiscards }
    chain := if clearChain then none else l.chain }

/-- The NO_INDEX expiry (R29): in ARMED the lane goes straight to DRAINING (R63); in CAPTURING capture ends with
a finish request (R66); elsewhere there is no expiry. -/
def Lane.noIndex (l : Lane) : Lane :=
  match l.state with
  | .armed => { l.recordCause .noIndex with state := .draining }
  | .capturing => l.endCapture .noIndex
  | _ => l

/-! ## Time at a lane -/

/-- The two timers of a lane: the open interval, which closes at 8192 ticks (R38), and the index timer of a lane in
ARMED or CAPTURING, which expires at 2N (R29). -/
inductive LaneTimer where
  | interval
  | index
  deriving DecidableEq, Repr

/-- The ticks until the index timer expires: in ARMED and CAPTURING only (R29). -/
def Lane.expiryIn (n : Nat) (l : Lane) : Option Nat :=
  match l.state with
  | .armed => some (160 * n - l.timing.timerTicks)
  | .capturing => some (160 * n - l.timing.timerTicks)
  | _ => none

/-- The ticks until the open interval has been open for 8192 (R38). -/
def Lane.timeoutIn (l : Lane) : Option Nat := l.interval.map (8192 - ·)

/-- The timer that runs out first among the next `dt` ticks, with the ticks until then. One that runs out at the last of
them leaves the order to the queue of commands; of two that run out at one tick the interval is taken first (log
entry 3). -/
def Lane.overdue (n dt : Nat) (l : Lane) : Option (Nat × LaneTimer) :=
  match l.timeoutIn, l.expiryIn n with
  | some a, some b =>
    if a ≤ b then (if a < dt then some (a, .interval) else none) else if b < dt then some (b, .index) else none
  | some a, none => if a < dt then some (a, .interval) else none
  | none, some b => if b < dt then some (b, .index) else none
  | none, none => none

/-- What happens where a timer runs out: the interval is closed at 8192 ticks and the next one opens there (R38), or the
NO_INDEX timeout expires (R29). -/
def Lane.runOut (env : LaneEnv) (d : Descriptor) (w : LaneTimer) (l : Lane) : Lane :=
  match w with
  | .interval => l.closeInterval env d 8192
  | .index => l.noIndex

/-- `dt` ticks pass at a lane with descriptor `d`: every timer that runs out before the last of them does so at its
point, in order of time. The first argument bounds the number of such points. -/
def Lane.passTime (env : LaneEnv) (d : Descriptor) : Nat → Nat → Lane → Lane
  | 0, dt, l => l.elapse env.profile.revPeriod dt
  | k + 1, dt, l =>
    match l.overdue env.profile.revPeriod dt with
    | none => l.elapse env.profile.revPeriod dt
    | some (t, w) =>
      Lane.passTime env d k (dt - t) ((l.elapse env.profile.revPeriod t).runOut env d w)

/-- A bound on the points at which timers run out within `dt` ticks: one interval at most is short of 8192 ticks, and
the NO_INDEX timeout expires once. -/
def pointsWithin (dt : Nat) : Nat := dt / 8192 + 2

/-- `dt` ticks pass at lane `i`. -/
def State.elapse (s : State) (i : Fin 4) (dt : Nat) : State :=
  s.setLane i
    (match (s.lanes[i]).active with
      | some d => (s.lanes[i]).passTime (s.laneEnv i d) d (pointsWithin dt) dt
      | none => (s.lanes[i]).elapse (s.laneProfile s.lanes[i]).revPeriod dt)

/-- One tick of the capture clock passes at every lane (log entry 4). -/
def State.tick (s : State) : State := (((s.elapse 0 1).elapse 1 1).elapse 2 1).elapse 3 1

/-! ## Draining and completion -/

/-- DRAINING ends when the lane's queue is empty and the engine holds no attempt of the lane (R68). -/
def State.drained (s : State) (i : Fin 4) : Bool :=
  (s.lanes[i]).state == .draining && (s.lanes[i]).queue.isEmpty && !s.engine.holdsLane i

/-- Steps 1 and 3 of R69 at the lane: the outcome is written, the descriptor dropped, the lane IDLE. DESIGN CHOICE (log
entry 21): the ending cause, which R65 keeps until the pass completes, stands on until the next activation. -/
def Lane.completePass (l : Lane) : Lane := { l with outcome := l.cause, active := none, state := .idle }

end Sys2Proof.Machine
end

