-- ==== Sys2Proof/Machine/Operands.lean ====
section
/-! DEFINITION. The layouts of the window's records (R117, R157, R159, R179 to R181), read and written byte by byte,
with the clamps of R2, R49, R53 and R179. -/

namespace Sys2Proof.Machine

/-! ## Bytes of numbers -/

/-- A number as `n` bytes, high byte first. -/
def bytesBE : Nat → Nat → List Byte
  | 0, _ => []
  | n + 1, v => bytesBE n (v / 256) ++ [BitVec.ofNat 8 v]

/-- A number with its byte of place `k`, place 0 the lowest, replaced. -/
def setByte (k : Nat) (b : Byte) (v : Nat) : Nat :=
  v / 256 ^ (k + 1) * 256 ^ (k + 1) + b.toNat * 256 ^ k + v % 256 ^ k

/-- A flag as a bit of a flags byte. -/
def flagBit (b : Bool) (k : Nat) : Nat := if b then 2 ^ k else 0

/-! ## Space 0: the settings block -/

/-- The settings block as its 16 bytes (R179). -/
def Settings.record (t : Settings) : List Byte :=
  [if t.rotating then 1 else 0] ++ bytesBE 1 t.grantBurst ++ bytesBE 1 t.confirmTarget ++ bytesBE 1 t.crcBonus
    ++ bytesBE 1 t.contestMargin ++ bytesBE 1 t.repairDepth ++ bytesBE 1 t.voteQuorum ++ bytesBE 1 t.trustFloor
    ++ bytesBE 1 t.seekLimit ++ bytesBE 2 t.lowThreshold ++ [0, 0, 0, 0, 0]

/-- A byte written into the settings block is stored and its field clamped; bytes 11 to 15 are discarded (R179). -/
def Settings.write (t : Settings) (offset : Nat) (b : Byte) : Settings :=
  match offset with
  | 0 => { t with rotating := b != 0 }
  | 1 => { t with grantBurst := clampNat 1 6 b.toNat }
  | 2 => { t with confirmTarget := clampNat 1 4 b.toNat }
  | 3 => { t with crcBonus := clampNat 0 15 b.toNat }
  | 4 => { t with contestMargin := clampNat 0 63 b.toNat }
  | 5 => { t with repairDepth := clampNat 0 4 b.toNat }
  | 6 => { t with voteQuorum := clampNat 1 15 b.toNat }
  | 7 => { t with trustFloor := clampNat 0 15 b.toNat }
  | 8 => { t with seekLimit := clampNat 1 15 b.toNat }
  | 9 => { t with lowThreshold := clampNat 0 4095 (setByte 1 b t.lowThreshold) }
  | 10 => { t with lowThreshold := clampNat 0 4095 (setByte 0 b t.lowThreshold) }
  | _ => t

/-! ## Space 1: profiles -/

/-- The stored code of an encoding (R1). -/
def Encoding.code : Encoding → Byte
  | .fm => 0
  | .mfm => 1
  | .gcr => 2

/-- An encoding byte with its clamp (R2). -/
def Encoding.ofByte (b : Byte) : Encoding := if b = 0 then .fm else if b = 1 then .mfm else .gcr

/-- The size-code position as stored: FFh for none (R1). -/
def sizePosByte : Option Nat → Byte
  | some k => BitVec.ofNat 8 k
  | none => 0xFF

/-- A profile as its 24 bytes (R180). -/
def Profile.record (p : Profile) : List Byte :=
  [p.encoding.code] ++ bytesBE 2 p.cellPeriod ++ bytesBE 3 p.revPeriod ++ bytesBE 2 p.markPattern.toNat
    ++ [p.markValue] ++ bytesBE 1 p.markRepeat ++ [p.idMark, p.dataMark, p.deletedMark] ++ bytesBE 1 p.idLength
    ++ bytesBE 1 p.cylPos ++ bytesBE 1 p.cylWidth ++ bytesBE 1 p.headPos ++ bytesBE 1 p.sectorPos
    ++ [sizePosByte p.sizePos] ++ bytesBE 1 p.lengthCode ++ bytesBE 1 p.gapLimit ++ bytesBE 2 p.crcPreset.toNat
    ++ bytesBE 1 p.crcMarkCount

/-- A byte written into a profile is stored and its field clamped as a whole (R2). -/
def Profile.write (p : Profile) (offset : Nat) (b : Byte) : Profile :=
  match offset with
  | 0 => { p with encoding := Encoding.ofByte b }
  | 1 => { p with cellPeriod := clampNat 640 6400 (setByte 1 b p.cellPeriod) }
  | 2 => { p with cellPeriod := clampNat 640 6400 (setByte 0 b p.cellPeriod) }
  | 3 => { p with revPeriod := clampNat 100000 400000 (setByte 2 b p.revPeriod) }
  | 4 => { p with revPeriod := clampNat 100000 400000 (setByte 1 b p.revPeriod) }
  | 5 => { p with revPeriod := clampNat 100000 400000 (setByte 0 b p.revPeriod) }
  | 6 => { p with markPattern := BitVec.ofNat 16 (setByte 1 b p.markPattern.toNat) }
  | 7 => { p with markPattern := BitVec.ofNat 16 (setByte 0 b p.markPattern.toNat) }
  | 8 => { p with markValue := b }
  | 9 => { p with markRepeat := clampNat 1 3 b.toNat }
  | 10 => { p with idMark := b }
  | 11 => { p with dataMark := b }
  | 12 => { p with deletedMark := b }
  | 13 => { p with idLength := clampNat 4 6 b.toNat }
  | 14 => { p with cylPos := clampNat 0 5 b.toNat }
  | 15 => { p with cylWidth := clampNat 1 2 b.toNat }
  | 16 => { p with headPos := clampNat 0 5 b.toNat }
  | 17 => { p with sectorPos := clampNat 0 5 b.toNat }
  | 18 => { p with sizePos := if b.toNat ≤ 5 then some b.toNat else none }
  | 19 => { p with lengthCode := clampNat 0 4 b.toNat }
  | 20 => { p with gapLimit := clampNat 8 255 b.toNat }
  | 21 => { p with crcPreset := BitVec.ofNat 16 (setByte 1 b p.crcPreset.toNat) }
  | 22 => { p with crcPreset := BitVec.ofNat 16 (setByte 0 b p.crcPreset.toNat) }
  | 23 => { p with crcMarkCount := clampNat 0 3 b.toNat }
  | _ => p

/-! ## Space 2: presets -/

/-- A preset as its 4 bytes, the bias a signed byte, with the in-force lanes given (R180). -/
def Preset.record (x : Preset) (inForce : Nat) : List Byte :=
  bytesBE 1 x.gain ++ bytesBE 1 x.tolerance ++ [BitVec.ofInt 8 x.bias] ++ bytesBE 1 inForce

/-- A byte written into a preset is stored and its field clamped; a byte to the in-force lanes is discarded (R49). -/
def Preset.write (x : Preset) (offset : Nat) (b : Byte) : Preset :=
  match offset with
  | 0 => { x with gain := clampNat 0 4 b.toNat }
  | 1 => { x with tolerance := clampNat 0 3 b.toNat }
  | 2 => { x with bias := if b.toInt < -4 then -4 else if 4 < b.toInt then 4 else b.toInt }
  | _ => x

/-- Lane `l` holds preset `n` as its preset in force while it is not IDLE (R50). -/
def Lane.holdsPreset (l : Lane) (n : Nat) : Bool := l.state != .idle && l.separator.presetInForce.val == n

/-- The in-force lanes field of preset `n`: bit l for lane l (R48, R50). -/
def State.inForce (s : State) (n : Nat) : Nat :=
  flagBit ((s.lanes[0]).holdsPreset n) 0 + flagBit ((s.lanes[1]).holdsPreset n) 1
    + flagBit ((s.lanes[2]).holdsPreset n) 2 + flagBit ((s.lanes[3]).holdsPreset n) 3

/-! ## Space 3: schedules -/

/-- A lane's schedule record as its 20 bytes (R52, R180). -/
def ScheduleState.record (x : ScheduleState) : List Byte :=
  bytesBE 1 x.staged.slotCount ++ bytesBE 1 x.staged.frameLength
    ++ (x.staged.slots.toList.map fun n => BitVec.ofNat 8 n.val)
    ++ [if x.pending then 1 else 0] ++ bytesBE 1 x.revInSlot

/-- A slot preset byte with its clamp (R53). -/
def slotPreset (b : Byte) : Fin 16 := if h : b.toNat < 16 then ⟨b.toNat, h⟩ else 15

/-- A byte written into a schedule record goes to the staged copy, clamped, and sets the pending flag; a byte to
the last two fields is discarded (R53). -/
def ScheduleState.write (x : ScheduleState) (offset : Nat) (b : Byte) : ScheduleState :=
  match offset with
  | 0 => { x with staged := { x.staged with slotCount := clampNat 1 16 b.toNat }, pending := true }
  | 1 => { x with staged := { x.staged with frameLength := clampNat 1 255 b.toNat }, pending := true }
  | k + 2 =>
    if k < 16 then
      { x with staged := { x.staged with slots := x.staged.slots.setIfInBounds k (slotPreset b) }, pending := true }
    else x

/-! ## Spaces 4 to 6: entries -/

/-- Status codes (R102). -/
def Status.code : Status → Nat
  | .opened => 1
  | .provisional => 2
  | .settled => 3
  | .conflict => 4

/-- Origin codes (R157). -/
def Origin.code : Origin → Nat
  | .none => 0
  | .attempt => 1
  | .vote => 2
  | .repair => 3

/-- Repair outcome codes (R148). -/
def Repair.code : Repair → Nat
  | .notTried => 0
  | .accepted => 1
  | .noneFound => 2
  | .ambiguous => 3

/-- The record of an entry that is not FREE as its 48 bytes (R157). -/
def Entry.record (e : Entry) : List Byte :=
  bytesBE 1 e.key.track.volume.val ++ bytesBE 2 e.key.track.cylinder ++ bytesBE 1 e.key.track.head
    ++ bytesBE 1 e.key.sector ++ bytesBE 1 e.status.code
    ++ bytesBE 1 (flagBit e.busy 0 + flagBit e.voteConfirm 1 + flagBit e.deleted 2 + flagBit e.conflictRecorded 3)
    ++ bytesBE 1 e.origin.code ++ bytesBE 1 e.generation ++ bytesBE 2 e.dataLength ++ bytesBE 2 e.merged
    ++ bytesBE 2 e.crcGood ++ bytesBE 1 e.confirmations ++ bytesBE 1 e.target ++ bytesBE 1 e.conflicts
    ++ bytesBE 1 e.replacements ++ bytesBE 2 e.surplus ++ bytesBE 2 e.mismatches ++ bytesBE 2 e.blank
    ++ bytesBE 2 e.contestedCount ++ bytesBE 1 e.repair.code ++ bytesBE 1 e.contestedList.length
    ++ ((List.range 8).flatMap fun k => bytesBE 2 (e.contestedList.getD k 0))
    ++ bytesBE 2 e.unsearched ++ [0]

/-- The bytes of a candidate list in the candidate view: three value and weight pairs (R117). -/
def viewBytes (l : List Candidate) : List Byte :=
  (List.range 3).flatMap fun k =>
    match l[k]? with
    | some c => [c.value, BitVec.ofNat 8 c.weight]
    | none => [0, 0]

/-- The byte of an entry's image record at an offset: image bytes to position L+1, then 00h (R159). -/
def imageByte (e : Entry) (x : Slot) (offset : Nat) : Byte :=
  if offset < e.dataLength + 2 then x.image.getD offset 0 else 0

/-- The byte of an entry's candidate view at an offset: six bytes for each position to L+1, then 00h (R117). -/
def viewByte (e : Entry) (x : Slot) (offset : Nat) : Byte :=
  if offset / 6 < e.dataLength + 2 then (viewBytes (x.lists.getD (offset / 6) [])).getD (offset % 6) 0 else 0

/-! ## Spaces 7 to 9: reports, volumes, tracks -/

/-- Lane state codes (R78). -/
def LaneState.code : LaneState → Nat
  | .idle => 0
  | .armed => 1
  | .capturing => 2
  | .finishing => 3
  | .draining => 4

/-- Outcome codes; NONE is 0 (R81). -/
def outcomeCode : Option PassOutcome → Nat
  | none => 0
  | some .complete => 1
  | some .aborted => 2
  | some .noIndex => 3
  | some .seekMismatch => 4

/-- The degraded flag (R80). -/
def Counts.degraded (n : Counts) : Bool :=
  decide (0 < n.overruns) || decide (0 < n.syncLosses) || decide (0 < n.codeViolations)

/-- A lane's report as its 40 bytes (R181). -/
def Lane.report (l : Lane) : List Byte :=
  bytesBE 1 l.state.code ++ bytesBE 1 l.revolutions ++ bytesBE 1 l.schedule.slotPosition
    ++ bytesBE 1 l.separator.presetInForce.val ++ bytesBE 2 l.timing.cauto ++ bytesBE 2 l.timing.ceff
    ++ bytesBE 3 l.timing.lastPeriod ++ [if l.chain.isSome then 1 else 0] ++ bytesBE 2 l.counts.attempts
    ++ bytesBE 2 l.counts.overruns ++ bytesBE 1 l.counts.queueDiscards ++ bytesBE 2 l.counts.unanchored
    ++ bytesBE 2 l.counts.idCrcBad ++ bytesBE 2 l.counts.dataCrcGood ++ bytesBE 2 l.counts.syncLosses
    ++ bytesBE 2 l.counts.codeViolations ++ bytesBE 2 l.counts.strayMarks ++ bytesBE 2 l.counts.orphanIds
    ++ bytesBE 1 l.counts.seekMismatches ++ bytesBE 2 l.counts.outOfGeometry ++ bytesBE 1 l.counts.indexFaults
    ++ bytesBE 2 l.counts.indexGlitches ++ bytesBE 1 l.counts.settledByPass
    ++ bytesBE 1 (flagBit l.timing.speedClamp 0 + flagBit l.counts.degraded 1) ++ bytesBE 1 (outcomeCode l.outcome)

/-- A volume record as its 20 bytes (R181). -/
def Volume.record (v : Volume) : List Byte :=
  [if v.isOpen then 1 else 0] ++ bytesBE 1 v.profile.val ++ bytesBE 2 v.cylinders ++ bytesBE 1 v.heads
    ++ bytesBE 1 v.firstSector ++ bytesBE 1 v.sectorsPerTrack ++ bytesBE 2 v.live ++ bytesBE 2 v.settled
    ++ bytesBE 3 v.released ++ bytesBE 2 v.tracksDone ++ bytesBE 2 v.tableFull ++ bytesBE 2 v.surplus

/-- An allocated track record as its 16 bytes (R181). -/
def Track.record (t : Track) : List Byte :=
  bytesBE 1 (1 + flagBit t.done 1) ++ bytesBE 1 t.key.volume.val ++ bytesBE 2 t.key.cylinder
    ++ bytesBE 1 t.key.head ++ bytesBE 1 t.settled ++ bytesBE 1 t.released ++ bytesBE 1 t.live
    ++ bytesBE 8 t.releasedSet.toNat

end Sys2Proof.Machine
end

