-- ==== Sys2Proof/Machine/Window.lean ====
section
/-! DEFINITION. The window (R176 to R178): its spaces, the cursor, and the byte a space holds at a place. -/

namespace Sys2Proof.Machine

/-- The record count of a space (R176). -/
def spaceRecords : Nat → Nat
  | 0 => 1
  | 1 => 8
  | 2 => 16
  | 3 => 4
  | 4 => 4096
  | 5 => 4096
  | 6 => 4096
  | 7 => 4
  | 8 => 8
  | 9 => 512
  | _ => 0

/-- The record size of a space in bytes (R176). -/
def spaceSize : Nat → Nat
  | 0 => 16
  | 1 => 24
  | 2 => 4
  | 3 => 20
  | 4 => 48
  | 5 => 1026
  | 6 => 6156
  | 7 => 40
  | 8 => 20
  | 9 => 16
  | _ => 0

/-- The cursor moves by one byte: through the record, into the next record, and from the space's last byte to its
end position, where it stays (R177). -/
def Cursor.next : Cursor → Cursor
  | .point space index offset =>
    if offset + 1 < spaceSize space then .point space index (offset + 1)
    else if index + 1 < spaceRecords space then .point space (index + 1) 0
    else .endOf space
  | .endOf space => .endOf space

/-- SET WINDOW's tests, in order space, index, offset (R175). -/
def windowInRange (space index offset : Nat) : Bool :=
  decide (space ≤ 9) && decide (index < spaceRecords space) && decide (offset < spaceSize space)

/-- The byte the tables hold at a place of the window (R117, R157, R159, R176, R179 to R181). FREE entries and
free track records read 00h throughout (R99, R102). -/
def State.windowByte (s : State) (space index offset : Nat) : Byte :=
  match space with
  | 0 => s.settings.record.getD offset 0
  | 1 => match s.profiles[index]? with | some p => p.record.getD offset 0 | none => 0
  | 2 => match s.presets[index]? with | some x => (x.record (s.inForce index)).getD offset 0 | none => 0
  | 3 => match s.lanes[index]? with | some l => l.schedule.record.getD offset 0 | none => 0
  | 4 => match Table.get s.entries index with | some e => e.record.getD offset 0 | none => 0
  | 5 =>
    match Table.get s.entries index, Table.get s.slots index with
    | some e, some x => imageByte e x offset
    | _, _ => 0
  | 6 =>
    match Table.get s.entries index, Table.get s.slots index with
    | some e, some x => viewByte e x offset
    | _, _ => 0
  | 7 => match s.lanes[index]? with | some l => l.report.getD offset 0 | none => 0
  | 8 => match s.volumes[index]? with | some v => v.record.getD offset 0 | none => 0
  | 9 => match Table.get s.tracks index with | some t => t.record.getD offset 0 | none => 0
  | _ => 0

/-- Before the candidate view of the entry in hand is read during a merge, the merge has come some way on: how far
is a free value (R117, R120, log entry 7). Any other read finds the tables as they stand. -/
def State.beforeRead (s : State) (space index : Nat) : State :=
  match s.engine.phase, s.engine.hand with
  | .merge, some h =>
    if space = 6 ∧ index = h.entry then
      let s1 := s.advanceMerge h (Config.mergeProgress s.engine.freeCount)
      { s1 with engine := { s1.engine with freeCount := s.engine.freeCount + 1 } }
    else s
  | _, _ => s

/-- A port's cursor moves on and the result is noted (R173, R177). -/
def Port.advance (x : Port) (r : ResultCode) : Port :=
  { x with cursor := x.cursor.next, lastResult := x.lastResult.note r }

/-- The data-phase bytes so far, with one more (R172). -/
def Phase.shiftOut (b : Byte) : Phase → Phase
  | .reading out => .reading (out ++ [b])
  | .writing out => .writing (out ++ [b])
  | ph => ph

/-- A window byte completed on a port: it shifts out `b`, moves the cursor and notes the result. -/
def Port.windowStep (x : Port) (b : Byte) (r : ResultCode) : Port :=
  { x.advance r with phase := x.phase.shiftOut b }

/-- The port is in the data phase of READ WINDOW. -/
def Phase.isReading : Phase → Bool
  | .reading _ => true
  | _ => false

/-- The port is in the data phase of WRITE WINDOW. -/
def Phase.isWriting : Phase → Bool
  | .writing _ => true
  | _ => false

end Sys2Proof.Machine
end

