-- ==== Sys2Proof/Machine/Command.lean ====
section
/-! DEFINITION. How a command is taken at its port and answered (R171 to R173), and the effects of the commands that
test their arguments: volumes, passes, table queries, release and reset. -/

namespace Sys2Proof.Machine

/-- The outcome of a command of the block. -/
abbrev Result := Host.Outcome State Fault Refusal

/-- A number as a Fin, when it is in range. -/
def finOf (k n : Nat) : Option (Fin k) := if h : n < k then some ⟨n, h⟩ else none

/-- A command's answer: the result code, the response bytes after it, and the state it leaves (R172, R173). -/
structure Reply where
  code : ResultCode
  bytes : List Byte
  state : State

/-- The port has an open transaction whose command has not yet been taken (R171). -/
def Phase.awaitsCommand : Phase → Bool
  | .command _ => true
  | _ => false

/-- The data phase of an answer: a filler byte 00h, the result code and the response bytes (R172). -/
def Reply.response (r : Reply) : Phase := .response (0 :: r.code.byte :: r.bytes) none

/-- A command is taken at port `p`: its body acts, its result becomes the port's last result, and its response is
fixed (R171, R172, R173). A port without an open transaction, or whose command has been taken, takes none. -/
def State.onCommand (s : State) (p : PortId) (body : State → Reply) : State :=
  if (s.port p).phase.awaitsCommand then
    let r := body s
    r.state.setPort p { r.state.port p with lastResult := r.code, phase := r.response }
  else s

/-- A window byte written at port `p`'s cursor, when the cursor points at a byte and `f` says what a byte there
does; `none` means that this kind of write does not concern the place (R178). -/
def State.onWindowWrite (s : State) (p : PortId) (f : Nat → Nat → Nat → Option (State × ResultCode)) : State :=
  match (s.port p).phase.isWriting, (s.port p).cursor with
  | true, .point space index offset =>
    match f space index offset with
    | some (t, r) => t.setPort p ((t.port p).windowStep 0 r)
    | none => s
  | _, _ => s

/-! ## Volumes -/

/-- OPEN VOLUME's range test (R96). -/
def openInRange (cylinders heads first perTrack : Nat) : Bool :=
  decide (1 ≤ cylinders) && decide (cylinders ≤ 1024) && decide (1 ≤ heads) && decide (heads ≤ 8)
    && decide (1 ≤ perTrack) && decide (perTrack ≤ 64) && decide (first + perTrack - 1 ≤ 255)

/-- OPEN VOLUME (R96). -/
def State.openVolume (s : State) (volume profile cylinders heads first perTrack : Nat) : Reply :=
  match finOf 8 volume, finOf 8 profile with
  | some v, some n =>
    if !openInRange cylinders heads first perTrack then ⟨.range, [], s⟩
    else if (s.volumes[v]).isOpen then ⟨.refused, [], s⟩
    else ⟨.ok, [], s.setVolume v ⟨true, n, cylinders, heads, first, perTrack, 0, 0, 0, 0, 0, 0⟩⟩
  | _, _ => ⟨.range, [], s⟩

/-- A lane's active or chained descriptor names volume `v` (R97). -/
def Lane.names (l : Lane) (v : Fin 8) : Bool :=
  (match l.active with | some d => d.volume == v | none => false)
    || (match l.chain with | some d => d.volume == v | none => false)

/-- Some lane or the engine holds work of volume `v` (R97). -/
def State.volumeBusy (s : State) (v : Fin 8) : Bool :=
  (s.lanes.toList.any fun l => l.names v) || s.engine.holdsVolume v

/-- The closing of a volume: its entries and track records are freed, and it becomes FREE with live and settled
entries 0 (R97). -/
def State.closeNow (s : State) (v : Fin 8) : State :=
  let kept := s.entries.filter fun e => e.2.key.track.volume != v
  let x := s.volumes[v]
  (({ s with
      entries := kept
      tracks := s.tracks.filter fun t => t.2.key.volume != v }).setVolume v
    { x with isOpen := false, live := 0, settled := 0 }).freeUp (s.entries.length - kept.length)

/-- CLOSE VOLUME (R97). -/
def State.closeVolume (s : State) (volume : Nat) : Reply :=
  match finOf 8 volume with
  | none => ⟨.range, [], s⟩
  | some v =>
    if !(s.volumes[v]).isOpen then ⟨.refused, [], s⟩
    else if s.volumeBusy v then ⟨.busy, [], s⟩
    else ⟨.ok, [], s.closeNow v⟩

/-! ## Passes -/

/-- The cell override as held: 0 is absent, other values are clamped to 640–6400 (R58). -/
def heldOverride (v : Nat) : Option Nat := if v = 0 then none else some (clampNat 640 6400 v)

/-- A descriptor from the argument fields (R58). -/
def descriptorOf (v : Fin 8) (cylinder head revolutions settle selector cellOverride : Nat) : Descriptor where
  volume := v
  cylinder := cylinder
  head := head
  revolutions := revolutions
  settle := settle
  preset := finOf 16 selector
  cellOverride := heldOverride cellOverride

/-- Placing a descriptor that has passed the tests of R59: active on an IDLE lane, else in an empty chain slot, else
BUSY (R60). -/
def State.placePass (s : State) (i : Fin 4) (d : Descriptor) : Reply :=
  if (s.lanes[i]).state = .idle then ⟨.ok, [], s.activate i d⟩
  else if (s.lanes[i]).chain.isSome then ⟨.busy, [], s⟩
  else ⟨.ok, [], s.setLane i { s.lanes[i] with chain := some d }⟩

/-- POST PASS: the tests of R59 in order; lane and volume share the first argument byte (R174). -/
def State.postPass (s : State) (laneVolume cylinder head revolutions settle selector cellOverride : Nat) : Reply :=
  match finOf 4 (laneVolume / 16), finOf 8 (laneVolume % 16) with
  | some i, some v =>
    if !(decide (1 ≤ revolutions) && decide (revolutions ≤ 63) && decide (settle ≤ 7) && decide (selector ≤ 16)) then
      ⟨.range, [], s⟩
    else if !(s.volumes[v]).isOpen then ⟨.refused, [], s⟩
    else if !(decide (cylinder < (s.volumes[v]).cylinders) && decide (head < (s.volumes[v]).heads)) then
      ⟨.range, [], s⟩
    else s.placePass i (descriptorOf v cylinder head revolutions settle selector cellOverride)
  | _, _ => ⟨.range, [], s⟩

/-- An abort on lane `i`, which also ends a burst of the lane whose queue it empties (R71, R92). -/
def State.abortLane (s : State) (i : Fin 4) (discardQueue clearChain : Bool) : State :=
  let ends := discardQueue && (s.arbiter.owner == some i) && !(s.lanes[i]).queue.isEmpty
  { s.setLane i ((s.lanes[i]).abort discardQueue clearChain) with
    arbiter := if ends then s.arbiter.endBurst else s.arbiter }

/-- ABORT PASS (R70). -/
def State.abortPass (s : State) (lane : Nat) (flags : Byte) : Reply :=
  match finOf 4 lane with
  | none => ⟨.range, [], s⟩
  | some i =>
    if (s.lanes[i]).state = .idle then ⟨.refused, [], s⟩
    else ⟨.ok, [], s.abortLane i (flags.getLsbD 0) (flags.getLsbD 1)⟩

/-- The events of a pass completion (R69). -/
def State.raiseCompletion (s : State) (i : Fin 4) (cause : Option PassOutcome) : State :=
  let s1 := s.raise (.passDone i)
  if cause = some .noIndex ∨ cause = some .seekMismatch then s1.raise .laneFault else s1

/-- The completion of lane `i`'s pass (R69): outcome, events, IDLE, and the promotion of a chained descriptor. -/
def State.completePass (s : State) (i : Fin 4) : State :=
  let l := s.lanes[i]
  let s1 := (s.raiseCompletion i l.cause).setLane i { l.completePass with chain := none }
  match l.chain with
  | some d => s1.activate i d
  | none => s1

/-! ## Table queries -/

/-- The status code of a sector: 0 ABSENT, 1 to 4 an entry's status, 5 RELEASED (R112, R113). -/
def State.sectorStatus (s : State) (k : SectorKey) : Nat :=
  match s.findEntry k with
  | some (_, e) => e.status.code
  | none => if s.isReleased k then 5 else 0

/-- LOCATE (R112). -/
def State.locate (s : State) (volume cylinder head sector : Nat) : Reply :=
  match finOf 8 volume with
  | none => ⟨.range, [0xFF, 0xFF, 0xFF], s⟩
  | some v =>
    let x := s.volumes[v]
    let k : SectorKey := ⟨⟨v, cylinder, head⟩, sector⟩
    if !x.isOpen then ⟨.refused, [0xFF, 0xFF, 0xFF], s⟩
    else if !(decide (cylinder < x.cylinders) && decide (head < x.heads) && x.holdsSector sector) then
      ⟨.range, [0xFF, 0xFF, 0xFF], s⟩
    else
      match s.findEntry k with
      | some (i, e) => ⟨.ok, bytesBE 2 i ++ bytesBE 1 e.status.code, s⟩
      | none => ⟨.notFound, [0xFF, 0xFF] ++ bytesBE 1 (if s.isReleased k then 5 else 0), s⟩

/-- QUERY TRACK (R113). -/
def State.queryTrack (s : State) (volume cylinder head : Nat) : Reply :=
  match finOf 8 volume with
  | none => ⟨.range, [0], s⟩
  | some v =>
    let x := s.volumes[v]
    if !x.isOpen then ⟨.refused, [0], s⟩
    else if !(decide (cylinder < x.cylinders) && decide (head < x.heads)) then ⟨.range, [0], s⟩
    else
      ⟨.ok, bytesBE 1 x.sectorsPerTrack
        ++ (List.range x.sectorsPerTrack).map fun k =>
          BitVec.ofNat 8 (s.sectorStatus ⟨⟨v, cylinder, head⟩, x.firstSector + k⟩), s⟩

/-- NEXT SETTLED (R114). -/
def State.nextSettled (s : State) (volume fromIndex : Nat) : Reply :=
  match finOf 8 volume with
  | none => ⟨.range, [0xFF, 0xFF], s⟩
  | some v =>
    if !(s.volumes[v]).isOpen then ⟨.refused, [0xFF, 0xFF], s⟩
    else if 4095 < fromIndex then ⟨.range, [0xFF, 0xFF], s⟩
    else
      match s.entries.find? fun x =>
        decide (fromIndex ≤ x.1) && x.2.status == .settled && x.2.key.track.volume == v with
      | some (i, _) => ⟨.ok, bytesBE 2 i, s⟩
      | none => ⟨.notFound, [0xFF, 0xFF], s⟩

/-! ## Release -/

/-- A track record after the release of one of its sectors, at offset `k` (R163). -/
def Track.release (t : Track) (k : Nat) (wasSettled : Bool) : Track :=
  { t with
    releasedSet := t.releasedSet ||| (1#64 <<< k)
    released := t.released + 1
    live := t.live - 1
    settled := if wasSettled then t.settled - 1 else t.settled }

/-- A volume record after the release of one of its entries (R164). -/
def Volume.release (v : Volume) (wasSettled : Bool) : Volume :=
  { v with
    live := v.live - 1
    settled := if wasSettled then v.settled - 1 else v.settled
    released := v.released + 1 }

/-- The release of entry `i` (R162 to R164). -/
def State.releaseNow (s : State) (i : Nat) (e : Entry) : State :=
  let v := e.key.track.volume
  let was := e.status == .settled
  let s1 :=
    (({ s with entries := Table.drop s.entries i }).setVolume v ((s.volumes[v]).release was)).freeUp 1
  match s.findTrack e.key.track with
  | some (j, t) => s1.noteTrack j (t.release (s.offsetOf e.key) was)
  | none => s1

/-- RELEASE (R161). -/
def State.release (s : State) (index : Nat) : Reply :=
  if 4095 < index then ⟨.range, [0xFF], s⟩
  else
    match Table.get s.entries index with
    | none => ⟨.notFound, [0xFF], s⟩
    | some e =>
      if e.busy then ⟨.busy, [0xFF], s⟩
      else ⟨.ok, bytesBE 1 e.status.code, s.releaseNow index e⟩

/-! ## Reset -/

/-- A port after a reset: its reset state, any transaction in progress abandoned (R169, R185, R186). -/
def Port.afterReset (x : Port) : Port :=
  { Port.reset with phase := match x.phase with | .closed => .closed | _ => .abandoned }

/-- A lane after a reset: its reset values, and the model's own free-value count as it stood (R185). -/
def Lane.afterReset (l : Lane) : Lane := { Lane.reset with freeCount := l.freeCount }

/-- Every block takes its reset values; candidate memory is not cleared (R185, R186). The queue of waiting
commands, the RESET_N pin and the model's free-value counts are not blocks of the part. -/
def State.resetBlocks (s : State) : State :=
  { State.reset with
    slots := s.slots
    lanes := #v[(s.lanes[0]).afterReset, (s.lanes[1]).afterReset, (s.lanes[2]).afterReset, (s.lanes[3]).afterReset]
    engine := { Engine.reset with freeCount := s.engine.freeCount }
    bay := s.bay.afterReset
    station := s.station.afterReset
    resetLow := s.resetLow
    pending := s.pending }

end Sys2Proof.Machine
end

