-- ==== Sys2Proof/Machine/EngineEvents.lean ====
section
/-! DEFINITION. The meanings of the arbiter's and the engine's events (R91, R120, R150). -/

namespace Sys2Proof.Machine

/-- GRANT (R88, R91, R104). -/
def execGrant (s : State) : Result := .next s.grantOne

/-- MERGE_END (R120): the merge writes the positions it has still to write, the counts and the witness take their
new values, and the engine enters EVALUATION. -/
def execMergeEnd (s : State) : Result :=
  .next <|
    match s.engine.phase, s.engine.hand with
    | .merge, some h => (s.advanceMerge h (h.attempt.dataLength + 2)).endMerge h
    | _, _ => s

/-- EVALUATION_COMPLETION (R150). -/
def execEvaluationCompletion (s : State) : Result :=
  .next <|
    match s.engine.phase, s.engine.hand with
    | .evaluation, some h => s.completeEvaluation h
    | _, _ => s

end Sys2Proof.Machine
end

