-- ==== Sys2Proof/Machine/LaneEvents.lean ====
section
/-! DEFINITION. The meanings of the events at the lanes' inputs and of the pass completion (R29, R35, R38, R69). -/

namespace Sys2Proof.Machine

/-- INDEX_EDGE (R24, R35): after `elapsed` ticks a falling edge at the lane's INDEX input. A lane that does not watch
the input does not take it (R23). -/
def execIndexEdge (i : Fin 4) (elapsed : Nat) (s : State) : Result :=
  .next <|
    let t := s.elapse i elapsed
    let l := t.lanes[i]
    match l.watched, l.active with
    | true, some d => t.setLane i (l.indexEdge (t.profileOf d.volume) t.presets d)
    | _, _ => t

/-- NO_INDEX_TIMEOUT (R29): after `elapsed` ticks the index timer of a lane in ARMED or CAPTURING stands at 2N. A
timer short of 2N has not expired, and in FINISHING, or where it has expired before, there is no expiry. -/
def execNoIndexTimeout (i : Fin 4) (elapsed : Nat) (s : State) : Result :=
  .next <|
    let t := s.elapse i elapsed
    let l := t.lanes[i]
    match l.active with
    | some d => if 2 * (t.profileOf d.volume).revPeriod ≤ l.timing.indexTimer then t.setLane i l.noIndex else t
    | none => t

/-- FLUX_TRANSITION (R38): after `elapsed` ticks a falling edge at the lane's FLUX input closes the open interval.
While no interval is measured the transition is not measured. -/
def execFluxTransition (i : Fin 4) (elapsed : Nat) (s : State) : Result :=
  .next <|
    let t := s.elapse i elapsed
    let l := t.lanes[i]
    match l.interval, l.active with
    | some k, some d => t.setLane i (l.closeInterval (t.laneEnv i d) d k)
    | _, _ => t

/-- INTERVAL_TIMEOUT (R38): after `elapsed` ticks the open interval has been open for 8192 ticks and is closed as
an interval of that length. A shorter interval, one opened at an earlier timeout among them, has not timed out. -/
def execIntervalTimeout (i : Fin 4) (elapsed : Nat) (s : State) : Result :=
  .next <|
    let t := s.elapse i elapsed
    let l := t.lanes[i]
    match l.interval, l.active with
    | some k, some d => if 8192 ≤ k then t.setLane i (l.closeInterval (t.laneEnv i d) d 8192) else t
    | _, _ => t

/-- PASS_COMPLETION (R68, R69): DRAINING ends when the lane's queue is empty and the engine holds no attempt of the
lane; before that there is no completion. -/
def execPassCompletion (i : Fin 4) (s : State) : Result :=
  .next <| if s.drained i then s.completePass i else s

end Sys2Proof.Machine
end

