-- ==== Sys2Proof/Machine/PortCommands.lean ====
section
/-! DEFINITION. The meanings of the transaction events and of the commands that act on the port itself (R170 to R175,
R183, R184). -/

namespace Sys2Proof.Machine

/-- CHIP_SELECT_FALL (R170): the transaction opens and the status byte is captured. While RESET_N is low the port
ignores its chip select, and the transaction stays abandoned across the pin's rise (R186). -/
def execChipSelectFall (p : PortId) (s : State) : Result :=
  .next <|
    match (s.port p).phase with
    | .closed => s.setPort p { s.port p with phase := if s.resetLow then .abandoned else .command (s.statusByte p) }
    | _ => s

/-- TRANSACTION_CUT (R171): chip select rises before the command is taken, and the last result becomes CUT. A
transaction abandoned by a reset ends without a CUT (R185). -/
def execTransactionCut (p : PortId) (s : State) : Result :=
  .next <|
    match (s.port p).phase with
    | .command _ => s.setPort p { s.port p with lastResult := .cut, phase := .closed }
    | .abandoned => s.setPort p { s.port p with phase := .closed }
    | _ => s

/-- DATA_PHASE_END (R171): chip select rises after the command was taken, and the transaction closes. -/
def execDataPhaseEnd (p : PortId) (s : State) : Result :=
  .next <|
    match (s.port p).phase with
    | .closed => s
    | .command _ => s
    | _ => s.setPort p { s.port p with phase := .closed }

/-- UNKNOWN_COMMAND (R171): a code that is not in the command table gives UNKNOWN and does nothing. -/
def execUnknownCommand (p : PortId) (code : Byte) (s : State) : Result :=
  .next <| if commandCodes.contains code then s else s.onCommand p fun t => ⟨.unknown, [], t⟩

/-- The response bytes of STATUS: the free entry count and the four lane states (R174, R175). -/
def State.statusBytes (s : State) : List Byte :=
  bytesBE 2 s.freeEntries ++ s.lanes.toList.map fun l => BitVec.ofNat 8 l.state.code

/-- STATUS (R175): answered with OK, and the last result is left as it stood (R173). -/
def execStatus (p : PortId) (s : State) : Result :=
  .next <|
    if (s.port p).phase.awaitsCommand then
      s.setPort p { s.port p with phase := (Reply.mk .ok s.statusBytes s).response }
    else s

/-- READ_EVENTS (R183): the flag word is copied as the response; the copy waits to be cleared. -/
def execReadEvents (p : PortId) (s : State) : Result :=
  .next <|
    if (s.port p).phase.awaitsCommand then
      let x := s.port p
      s.setPort p
        { x with
          lastResult := .ok
          phase := .response (0 :: ResultCode.ok.byte :: bytesBE 2 x.flags.toNat) (some x.flags) }
    else s

/-- READ_EVENTS_CLEAR (R183): the second response byte has been shifted out, and the flags set in the copy are
cleared in this port's set. -/
def execReadEventsClear (p : PortId) (s : State) : Result :=
  .next <|
    match (s.port p).phase with
    | .response out (some copy) =>
      s.setPort p { s.port p with flags := (s.port p).flags &&& ~~~copy, phase := .response out none }
    | _ => s

/-- SET_EVENT_MASK (R184): bits 10 to 15 are stored as 0. -/
def execSetEventMask (p : PortId) (mask : Word) (s : State) : Result :=
  .next <| s.onCommand p fun t => ⟨.ok, [], t.setPort p { t.port p with mask := mask &&& 0x03FF#16 }⟩

end Sys2Proof.Machine
end

