-- ==== Sys2Proof/Machine/TableCommands.lean ====
section
/-! DEFINITION. The meanings of the commands on volumes, passes, tables and resets (R59, R70, R96, R97, R112 to R114,
R161, R185, R186). -/

namespace Sys2Proof.Machine

/-- OPEN_VOLUME (R96). -/
def execOpenVolume (p : PortId) (volume profile : Byte) (cylinders : Word) (heads first perTrack : Byte)
    (s : State) : Result :=
  .next <| s.onCommand p fun t =>
    t.openVolume volume.toNat profile.toNat cylinders.toNat heads.toNat first.toNat perTrack.toNat

/-- CLOSE_VOLUME (R97). -/
def execCloseVolume (p : PortId) (volume : Byte) (s : State) : Result :=
  .next <| s.onCommand p fun t => t.closeVolume volume.toNat

/-- POST_PASS (R59, R60). -/
def execPostPass (p : PortId) (laneVolume : Byte) (cylinder : Word) (head revolutions settle selector : Byte)
    (cellOverride : Word) (s : State) : Result :=
  .next <| s.onCommand p fun t =>
    t.postPass laneVolume.toNat cylinder.toNat head.toNat revolutions.toNat settle.toNat selector.toNat
      cellOverride.toNat

/-- ABORT_PASS (R70, R71): bit 0 of the flags is discard-queue and bit 1 clear-chain (R174). -/
def execAbortPass (p : PortId) (lane flags : Byte) (s : State) : Result :=
  .next <| s.onCommand p fun t => t.abortPass lane.toNat flags

/-- LOCATE (R112). -/
def execLocate (p : PortId) (volume : Byte) (cylinder : Word) (head sector : Byte) (s : State) : Result :=
  .next <| s.onCommand p fun t => t.locate volume.toNat cylinder.toNat head.toNat sector.toNat

/-- QUERY_TRACK (R113). -/
def execQueryTrack (p : PortId) (volume : Byte) (cylinder : Word) (head : Byte) (s : State) : Result :=
  .next <| s.onCommand p fun t => t.queryTrack volume.toNat cylinder.toNat head.toNat

/-- NEXT_SETTLED (R114). -/
def execNextSettled (p : PortId) (volume : Byte) (fromIndex : Word) (s : State) : Result :=
  .next <| s.onCommand p fun t => t.nextSettled volume.toNat fromIndex.toNat

/-- RELEASE (R161). -/
def execRelease (p : PortId) (index : Word) (s : State) : Result :=
  .next <| s.onCommand p fun t => t.release index.toNat

/-- RESET_DEVICE (R185): every block takes its reset values. The issuing transaction shifts out 00h to its end and
the issuing port's last result is OK; a transaction in progress on the other port is abandoned. -/
def execResetDevice (p : PortId) (s : State) : Result :=
  .next <|
    if (s.port p).phase.awaitsCommand then s.resetBlocks.setPort p { Port.reset with phase := .response [] none }
    else s

/-- RESET_N_ASSERT (R186). -/
def execResetAssert (s : State) : Result := .next { s.resetBlocks with resetLow := true }

/-- RESET_N_RELEASE (R186). -/
def execResetRelease (s : State) : Result := .next { s with resetLow := false }

end Sys2Proof.Machine
end

