-- ==== Sys2Proof/Machine/WindowCommands.lean ====
section
/-! DEFINITION. The meanings of the window commands and of the bytes read and written through the window (R175 to
R180). -/

namespace Sys2Proof.Machine

/-- SET_WINDOW (R175). -/
def execSetWindow (p : PortId) (space : Byte) (index offset : Word) (s : State) : Result :=
  .next <| s.onCommand p fun t =>
    if windowInRange space.toNat index.toNat offset.toNat then
      ⟨.ok, [], t.setPort p { t.port p with cursor := .point space.toNat index.toNat offset.toNat }⟩
    else ⟨.range, [], t⟩

/-- READ_WINDOW (R172, R173, R177): OK when taken, and window bytes follow. -/
def execReadWindow (p : PortId) (s : State) : Result :=
  .next <|
    if (s.port p).phase.awaitsCommand then s.setPort p { s.port p with lastResult := .ok, phase := .reading [] }
    else s

/-- WRITE_WINDOW (R172, R173, R178): OK when taken, and window bytes follow. -/
def execWriteWindow (p : PortId) (s : State) : Result :=
  .next <|
    if (s.port p).phase.awaitsCommand then s.setPort p { s.port p with lastResult := .ok, phase := .writing [] }
    else s

/-- WINDOW_BYTE_READ (R177): the value at the cursor, or FFh with RANGE at the end position. -/
def execWindowByteRead (p : PortId) (s : State) : Result :=
  .next <|
    if (s.port p).phase.isReading then
      match (s.port p).cursor with
      | .point space index offset =>
        let t := s.beforeRead space index
        t.setPort p ((t.port p).windowStep (t.windowByte space index offset) .ok)
      | .endOf _ => s.setPort p ((s.port p).windowStep 0xFF .range)
    else s

/-- SETTINGS_WRITE (R178, R179). -/
def execSettingsWrite (p : PortId) (b : Byte) (s : State) : Result :=
  .next <| s.onWindowWrite p fun space _ offset =>
    if space = 0 then some ({ s with settings := s.settings.write offset b }, .ok) else none

/-- PROFILE_WRITE (R2, R4, R178). -/
def execProfileWrite (p : PortId) (b : Byte) (s : State) : Result :=
  .next <| s.onWindowWrite p fun space index offset =>
    if space = 1 then
      match finOf 8 index with
      | some n =>
        if s.profileInUse n then some (s, .refused)
        else some ({ s with profiles := s.profiles.set n ((s.profiles[n]).write offset b) }, .ok)
      | none => none
    else none

/-- PRESET_WRITE (R49, R178). -/
def execPresetWrite (p : PortId) (b : Byte) (s : State) : Result :=
  .next <| s.onWindowWrite p fun space index offset =>
    if space = 2 then
      match finOf 16 index with
      | some n => some ({ s with presets := s.presets.set n ((s.presets[n]).write offset b) }, .ok)
      | none => none
    else none

/-- SCHEDULE_WRITE (R53, R178). -/
def execScheduleWrite (p : PortId) (b : Byte) (s : State) : Result :=
  .next <| s.onWindowWrite p fun space index offset =>
    if space = 3 then
      match finOf 4 index with
      | some i =>
        some (s.setLane i { s.lanes[i] with schedule := (s.lanes[i]).schedule.write offset b }, .ok)
      | none => none
    else none

/-- WINDOW_BYTE_WRITE (R177, R178): a byte into spaces 4 to 9 is discarded with REFUSED, and a byte at the end
position with RANGE. -/
def execWindowByteWrite (p : PortId) (_b : Byte) (s : State) : Result :=
  .next <|
    match (s.port p).phase.isWriting, (s.port p).cursor with
    | true, .endOf _ => s.setPort p ((s.port p).windowStep 0 .range)
    | _, _ => s.onWindowWrite p fun space _ _ => if 4 ≤ space then some (s, .refused) else none

end Sys2Proof.Machine
end

