-- ==== Sys2Proof/Machine/Dispatch.lean ====
section
/-! DEFINITION. The dispatch: one arm for each command of the block. -/

namespace Sys2Proof.Machine

def exec (i : Instr) (s : State) : Host.Outcome State Fault Refusal :=
  match i with
  | .chipSelectFall p => Sys2Proof.Machine.execChipSelectFall p s
  | .transactionCut p => Sys2Proof.Machine.execTransactionCut p s
  | .unknownCommand p code => Sys2Proof.Machine.execUnknownCommand p code s
  | .status p => Sys2Proof.Machine.execStatus p s
  | .readEvents p => Sys2Proof.Machine.execReadEvents p s
  | .readEventsClear p => Sys2Proof.Machine.execReadEventsClear p s
  | .setEventMask p mask => Sys2Proof.Machine.execSetEventMask p mask s
  | .setWindow p space index offset => Sys2Proof.Machine.execSetWindow p space index offset s
  | .readWindow p => Sys2Proof.Machine.execReadWindow p s
  | .windowByteRead p => Sys2Proof.Machine.execWindowByteRead p s
  | .writeWindow p => Sys2Proof.Machine.execWriteWindow p s
  | .settingsWrite p b => Sys2Proof.Machine.execSettingsWrite p b s
  | .profileWrite p b => Sys2Proof.Machine.execProfileWrite p b s
  | .presetWrite p b => Sys2Proof.Machine.execPresetWrite p b s
  | .scheduleWrite p b => Sys2Proof.Machine.execScheduleWrite p b s
  | .windowByteWrite p b => Sys2Proof.Machine.execWindowByteWrite p b s
  | .openVolume p volume profile cylinders heads first perTrack => Sys2Proof.Machine.execOpenVolume p volume profile cylinders heads first perTrack s
  | .closeVolume p volume => Sys2Proof.Machine.execCloseVolume p volume s
  | .postPass p laneVolume cylinder head revolutions settle selector cellOverride => Sys2Proof.Machine.execPostPass p laneVolume cylinder head revolutions settle selector cellOverride s
  | .abortPass p lane flags => Sys2Proof.Machine.execAbortPass p lane flags s
  | .locate p volume cylinder head sector => Sys2Proof.Machine.execLocate p volume cylinder head sector s
  | .queryTrack p volume cylinder head => Sys2Proof.Machine.execQueryTrack p volume cylinder head s
  | .nextSettled p volume fromIndex => Sys2Proof.Machine.execNextSettled p volume fromIndex s
  | .release p index => Sys2Proof.Machine.execRelease p index s
  | .resetDevice p => Sys2Proof.Machine.execResetDevice p s
  | .resetAssert => Sys2Proof.Machine.execResetAssert s
  | .resetRelease => Sys2Proof.Machine.execResetRelease s
  | .indexEdge lane elapsed => Sys2Proof.Machine.execIndexEdge lane elapsed s
  | .noIndexTimeout lane elapsed => Sys2Proof.Machine.execNoIndexTimeout lane elapsed s
  | .fluxTransition lane elapsed => Sys2Proof.Machine.execFluxTransition lane elapsed s
  | .intervalTimeout lane elapsed => Sys2Proof.Machine.execIntervalTimeout lane elapsed s
  | .grant => Sys2Proof.Machine.execGrant s
  | .mergeEnd => Sys2Proof.Machine.execMergeEnd s
  | .evaluationCompletion => Sys2Proof.Machine.execEvaluationCompletion s
  | .passCompletion lane => Sys2Proof.Machine.execPassCompletion lane s
  | .dataPhaseEnd p => Sys2Proof.Machine.execDataPhaseEnd p s

end Sys2Proof.Machine
end

