-- ==== Sys2Proof/Safety.lean ====
section
/-! DEFINITION. What a sound state of the part is: the invariants the manual's rules give, in the terms the statements
use, and the shape of an answered command. -/

namespace Sys2Proof.Machine

/-! ## Answers -/

/-- `s` after port `p` has answered a command that changed nothing else: the result is the last result, and the
data phase is the filler byte, the result code and the response bytes (R172, R173). -/
def State.answered (s : State) (p : PortId) (r : ResultCode) (bytes : List Byte) : State :=
  s.setPort p { s.port p with lastResult := r, phase := .response ([0, BitVec.ofNat 8 r.code] ++ bytes) none }

/-- Port `p` has an open transaction whose command is still to come (R171). -/
def State.ready (s : State) (p : PortId) : Prop := ∃ status, (s.port p).phase = .command status

/-- Port `p` is in the data phase of WRITE WINDOW, having shifted out `out`, with its cursor at this place (R178). -/
def State.writingAt (s : State) (p : PortId) (out : List Byte) (space index offset : Nat) : Prop :=
  (s.port p).phase = .writing out ∧ (s.port p).cursor = .point space index offset

/-- `s` after port `p`, whose data phase has shifted out `out` so far, has taken a written window byte: one more
00h is shifted out, the cursor moves on, and `r` is noted if the transaction's result was OK so far (R172, R173,
R177). -/
def State.wroteByte (s : State) (p : PortId) (out : List Byte) (r : ResultCode) : State :=
  s.setPort p
    { s.port p with
      cursor := (s.port p).cursor.next
      lastResult := if (s.port p).lastResult = .ok then r else (s.port p).lastResult
      phase := .writing (out ++ [0]) }

/-- The number that `n` consecutive window bytes form, high byte first, from this place on (R157, R179 to R181). -/
def State.windowNumber (s : State) (space index offset : Nat) : Nat → Nat
  | 0 => 0
  | n + 1 => 256 * s.windowNumber space index offset n + (s.windowByte space index (offset + n)).toNat

/-! ## Lanes -/

/-- The index timer's ticks at lane `i`, whose nominal revolution period is `n`, once `elapsed` more ticks have passed
there: it runs while the index input is watched and saturates at 2N index microseconds (R23, R24). -/
def State.ticksAfter (s : State) (i : Fin 4) (n elapsed : Nat) : Nat :=
  if (s.lanes[i]).state = .armed ∨ (s.lanes[i]).state = .capturing ∨ (s.lanes[i]).state = .finishing then
    min (160 * n) ((s.lanes[i]).timing.timerTicks + elapsed)
  else (s.lanes[i]).timing.timerTicks

/-- Lane `i`, whose nominal revolution period is `n`, once `elapsed` more ticks have passed there and neither of its
timers has run out: only the index timer and the open interval, which has at most 8192 ticks, have moved (R24, R38). -/
def State.laneAfter (s : State) (i : Fin 4) (n elapsed : Nat) : Lane :=
  { s.lanes[i] with
    timing := { (s.lanes[i]).timing with timerTicks := s.ticksAfter i n elapsed }
    interval := (s.lanes[i]).interval.map fun k => min 8192 (k + elapsed) }

/-- In the next `elapsed` ticks no timer of lane `i`, whose nominal revolution period is `n`, runs out before the last
tick: an open interval does not pass 8192 ticks, and the index timer in ARMED and CAPTURING does not pass 2N (R29, R38). -/
def State.onTime (s : State) (i : Fin 4) (n elapsed : Nat) : Prop :=
  (∀ k, (s.lanes[i]).interval = some k → k + elapsed ≤ 8192)
    ∧ ((s.lanes[i]).state = .armed ∨ (s.lanes[i]).state = .capturing →
        (s.lanes[i]).timing.timerTicks + elapsed ≤ 160 * n)

/-- The timer of lane `i` that runs out first, `t` ticks on, is the open interval's, which closes at 8192 ticks; of two
timers that run out at one tick the interval is taken first (R38, log entry 3). -/
def State.intervalEnds (s : State) (i : Fin 4) (n t : Nat) : Prop :=
  (∃ k, (s.lanes[i]).interval = some k ∧ t = 8192 - k)
    ∧ ((s.lanes[i]).state = .armed ∨ (s.lanes[i]).state = .capturing →
        t ≤ 160 * n - (s.lanes[i]).timing.timerTicks)

/-- The timer of lane `i` that runs out first, `t` ticks on, is the index timer in ARMED or CAPTURING, which expires at
2N (R29). -/
def State.indexExpires (s : State) (i : Fin 4) (n t : Nat) : Prop :=
  ((s.lanes[i]).state = .armed ∨ (s.lanes[i]).state = .capturing)
    ∧ t = 160 * n - (s.lanes[i]).timing.timerTicks
    ∧ ∀ k, (s.lanes[i]).interval = some k → t < 8192 - k

/-- Lane `i` watches its index input for a pass with descriptor `d` (R23). -/
def State.watching (s : State) (i : Fin 4) (d : Descriptor) : Prop :=
  (s.lanes[i]).active = some d
    ∧ ((s.lanes[i]).state = .armed ∨ (s.lanes[i]).state = .capturing ∨ (s.lanes[i]).state = .finishing)

/-- Lane `i` takes an index edge, `elapsed` ticks on, that is no glitch and comes before a timer of the lane has run out,
for a pass with descriptor `d` (R25 to R28). -/
def State.acceptsEdge (s : State) (i : Fin 4) (d : Descriptor) (elapsed : Nat) : Prop :=
  s.watching i d ∧ s.onTime i (s.profileOf d.volume).revPeriod elapsed
    ∧ ((s.lanes[i]).timing.edgeSeen = false
      ∨ (s.profileOf d.volume).revPeriod / 2 ≤ s.ticksAfter i (s.profileOf d.volume).revPeriod elapsed / 80)

/-- The record of lane `l` right after descriptor `d` has become active on it (R23, R36, R62): timing, counts, ending
cause and revolution count afresh, a pending schedule adopted, slot 0, and the preset in force latched. -/
def State.activatedLane (s : State) (l : Lane) (d : Descriptor) : Lane :=
  let cnom := (s.profileOf d.volume).cellPeriod
  let copy := if l.schedule.pending then l.schedule.staged else l.schedule.active
  let n : Fin 16 := d.preset.getD copy.slots[0]
  { l with
    state := .armed
    active := some d
    cause := none
    revolutions := 0
    timing :=
      { timerTicks := 0, edgeSeen := false, history := [], lastPeriod := 0, settleCount := 0, cauto := cnom
        ceff := d.cellOverride.getD cnom, speedClamp := false }
    separator :=
      { ccur := l.separator.ccur, presetInForce := n, gain := (s.presets[n]).gain
        tolerance := (s.presets[n]).tolerance, bias := (s.presets[n]).bias }
    schedule :=
      { active := copy, staged := l.schedule.staged, pending := false, slotPosition := 0, revInSlot := 0 }
    counts := Counts.zero }

/-- A framer that has taken cells one after another: its state, the counts, and the pairs it has reported (R10 to
R17). -/
def Framer.takeAll (p : Profile) : List RecordedCell → Framer → Counts → Framer × Counts × List FieldPair
  | [], f, n => (f, n, [])
  | c :: cs, f, n =>
    let r := f.takeCell p c n
    let rest := Framer.takeAll p cs r.framer r.counts
    (rest.1, rest.2.1, r.pair.toList ++ rest.2.2)

/-- The framer in HUNT with no ID held and nothing in progress (R10, R18), its gap count 0 (log entry 26). -/
def Framer.hunting (f : Framer) : Framer :=
  { f with
    mode := .hunt, finishing := false, matchCount := 0, sinceMatch := 0, oneRun := 0, heldId := none, gapCount := 0
    markFromGap := false, cells := [], bytes := [], confidences := [] }

/-- The framer STOPPED with no ID held and nothing in progress (R19), its gap count 0 and its other counts as they stood
(log entry 26). -/
def Framer.halted (f : Framer) : Framer :=
  { f with
    mode := .stopped, finishing := false, heldId := none, gapCount := 0, markFromGap := false, cells := [], bytes := []
    confidences := [] }

/-- The framer is inside a field (R10). -/
abbrev Framer.inside (f : Framer) : Prop := f.mode = .mark ∨ f.mode = .id ∨ f.mode = .data

/-- The largest and the smallest cell count of an encoding's allowed set (R6). -/
def Encoding.largest (e : Encoding) : Nat := if e = .mfm then 4 else 3

/-- See `Encoding.largest`. -/
def Encoding.smallest (e : Encoding) : Nat := if e = .mfm then 2 else 1

/-- An interval of raw cell count `kraw` ends the field of a framer inside one as a sync loss: it is a dropout, or a
run violation that brings the count to 3 (R18). -/
def Framer.loses (f : Framer) (e : Encoding) (kraw : Int) : Prop :=
  f.inside
    ∧ ((2 * e.largest : Nat) < kraw
      ∨ ((kraw < (e.smallest : Nat) ∨ (e.largest : Nat) < kraw) ∧ 2 ≤ f.runViolations))

/-! ## Grants -/

/-- A grant is due and takes attempt `a` from lane `l`, leaving `rest` in its queue: the engine is idle, and either
lane `l` owns the burst in progress, or none is in progress and lane `l` wins the arbitration (R88 to R91). -/
def State.Grants (s : State) (l : Fin 4) (a : Attempt) (rest : List Attempt) : Prop :=
  s.engine.phase = .idle ∧ (s.lanes[l]).queue = a :: rest
    ∧ (s.arbiter.owner = some l
      ∨ (s.arbiter.owner = none
        ∧ (s.settings.rotating = false → ∀ j : Fin 4, j < l → (s.lanes[j]).queue = [])
        ∧ (s.settings.rotating = true →
            ∃ ahead behind, s.arbiter.order = ahead ++ l :: behind ∧ ∀ j ∈ ahead, (s.lanes[j]).queue = [])))

/-- The state in which a granted attempt of lane `l` is classified: it has left the queue, which holds `rest`, and the
arbiter has counted the grant and ended the burst if that is due (R85, R88, R91, R92). -/
def State.granted (s : State) (l : Fin 4) (rest : List Attempt) : State :=
  let rotating := if s.arbiter.owner = none then s.settings.rotating else s.arbiter.rotating
  let burst := if s.arbiter.owner = none then s.settings.grantBurst else s.arbiter.burst
  let served := if s.arbiter.owner = none then 1 else s.arbiter.served + 1
  let ends := burst ≤ served ∨ rest = []
  { s.setLane l { s.lanes[l] with queue := rest } with
    arbiter :=
      { order := if ends ∧ rotating = true then s.arbiter.order.filter (· != l) ++ [l] else s.arbiter.order
        owner := if ends then none else some l
        served := if ends then 0 else served
        rotating := rotating
        burst := burst } }

/-! ## Tables -/

/-- The tables are in canonical form, and the free entry count is the number of FREE entries (R110). -/
def State.TablesCanonical (s : State) : Prop :=
  Table.wf 4096 s.entries = true ∧ Table.wf 512 s.tracks = true ∧ Table.wf 4096 s.slots = true
    ∧ s.freeEntries + s.entries.length = 4096

/-- No two entries share a key, and no two track records do (R99, R102). -/
def State.KeysDistinct (s : State) : Prop :=
  (s.entries.map fun e => e.2.key).Nodup ∧ (s.tracks.map fun t => t.2.key).Nodup

/-- Each volume's live-entry count is the number of its entries that are not FREE, and its settled-entry count the
number of those that are SETTLED (R98). -/
def State.VolumeCountsMatch (s : State) : Prop :=
  ∀ v : Fin 8,
    (s.volumes[v]).live = s.entries.countP (fun e => e.2.key.track.volume == v)
      ∧ (s.volumes[v]).settled =
          s.entries.countP (fun e => e.2.key.track.volume == v && e.2.status == .settled)

/-- Every entry's track has a record, and each record's live and settled counts are the numbers of its track's entries
and of its SETTLED entries (R99, R100). -/
def State.TrackCountsMatch (s : State) : Prop :=
  (∀ e ∈ s.entries, ∃ t ∈ s.tracks, t.2.key = e.2.key.track)
    ∧ ∀ t ∈ s.tracks,
        t.2.live = s.entries.countP (fun e => e.2.key.track == t.2.key)
          ∧ t.2.settled = s.entries.countP (fun e => e.2.key.track == t.2.key && e.2.status == .settled)

/-- A sector number lies in a volume's range (R95). -/
def Volume.Holds (v : Volume) (sector : Nat) : Prop :=
  v.firstSector ≤ sector ∧ sector < v.firstSector + v.sectorsPerTrack

/-- An OPEN volume has 1 to 64 sectors per track, and every entry and every queued attempt has its sector in its volume's
range (R74, R95). -/
def State.GeometrySound (s : State) : Prop :=
  (∀ v : Fin 8, (s.volumes[v]).isOpen = true →
    1 ≤ (s.volumes[v]).sectorsPerTrack ∧ (s.volumes[v]).sectorsPerTrack ≤ 64)
    ∧ (∀ e ∈ s.entries, (s.volumes[e.2.key.track.volume]).Holds e.2.key.sector)
    ∧ ∀ i : Fin 4, ∀ a ∈ (s.lanes[i]).queue, (s.volumes[a.key.track.volume]).Holds a.key.sector

/-- A track record's released set holds offsets below the sectors per track, and its released count is their number; no
entry of the track has its offset there; settled and released sectors together do not exceed the sectors per track, and the
done flag is set exactly when they have reached it (R99 to R101). -/
def State.ReleasedSetsMatch (s : State) : Prop :=
  ∀ t ∈ s.tracks,
    t.2.released = ((List.range 64).filter fun k => t.2.releasedSet.getLsbD k).length
      ∧ (∀ k < 64, t.2.releasedSet.getLsbD k = true → k < (s.volumes[t.2.key.volume]).sectorsPerTrack)
      ∧ (∀ e ∈ s.entries, e.2.key.track = t.2.key →
          t.2.releasedSet.getLsbD (e.2.key.sector - (s.volumes[t.2.key.volume]).firstSector) = false)
      ∧ t.2.settled + t.2.released ≤ (s.volumes[t.2.key.volume]).sectorsPerTrack
      ∧ (t.2.done = true ↔ (s.volumes[t.2.key.volume]).sectorsPerTrack ≤ t.2.settled + t.2.released)

/-- An OPEN volume's released-sectors count is the sum of the released counts of its track records, and its tracks-done
count the number of them whose done flag is set (R95, R98, R101). -/
def State.VolumeTalliesMatch (s : State) : Prop :=
  ∀ v : Fin 8, (s.volumes[v]).isOpen = true →
    (s.volumes[v]).released = ((s.tracks.filter fun t => t.2.key.volume == v).map fun t => t.2.released).sum
      ∧ (s.volumes[v]).tracksDone = s.tracks.countP (fun t => t.2.key.volume == v && t.2.done)

/-! ## Volumes and lanes -/

/-- A volume that an entry, a track record, a descriptor or an attempt names is OPEN: the contrapositive of
R97's closing paragraph. -/
def State.NamedVolumesOpen (s : State) : Prop :=
  (∀ e ∈ s.entries, (s.volumes[e.2.key.track.volume]).isOpen = true)
    ∧ (∀ t ∈ s.tracks, (s.volumes[t.2.key.volume]).isOpen = true)
    ∧ (∀ i : Fin 4, ∀ d, (s.lanes[i]).active = some d ∨ (s.lanes[i]).chain = some d →
        (s.volumes[d.volume]).isOpen = true)
    ∧ (∀ h, s.engine.hand = some h → (s.volumes[h.attempt.key.track.volume]).isOpen = true)

/-- An IDLE lane holds no descriptor and no attempt, and every queued attempt was read by its lane for its active
descriptor: it names the descriptor's volume, cylinder and head (R61, R73, R82). -/
def Lane.Consistent (l : Lane) (i : Fin 4) : Prop :=
  (l.state = .idle → l.active = none ∧ l.chain = none ∧ l.queue = [])
    ∧ l.queue.length ≤ 6
    ∧ ∀ a ∈ l.queue, a.lane = i ∧ ∃ d, l.active = some d ∧ a.key.track = ⟨d.volume, d.cylinder, d.head⟩

/-- Every lane is consistent. -/
def State.LanesConsistent (s : State) : Prop := ∀ i : Fin 4, (s.lanes[i]).Consistent i

/-! ## The arbiter and the engine -/

/-- The rotation order holds each of the four lanes exactly once (R86). -/
def State.OrderComplete (s : State) : Prop := s.arbiter.order.Perm [0, 1, 2, 3]

/-- The engine holds an attempt exactly while it is busy; that attempt's entry is busy, neither SETTLED nor in
CONFLICT, and no other entry is busy (R103, R104, R118). -/
def State.BusyEntryInHand (s : State) : Prop :=
  (s.engine.phase = .idle ↔ s.engine.hand = none)
    ∧ (∀ h, s.engine.hand = some h →
        ∃ e, Table.get s.entries h.entry = some e ∧ e.busy = true ∧ e.key = h.attempt.key
          ∧ (e.status = .opened ∨ e.status = .provisional))
    ∧ (∀ i e, Table.get s.entries i = some e → e.busy = true → ∃ h, s.engine.hand = some h ∧ h.entry = i)

/-! ## Whole records -/

/-- An attempt carries its L data bytes and 2 CRC bytes and as many confidences (R73). -/
def Attempt.Whole (a : Attempt) : Prop :=
  a.bytes.length = a.dataLength + 2 ∧ a.confidences.length = a.dataLength + 2

/-- A slot holds a candidate list and an image byte for each of L+2 positions, and a witness, if any, of L+2 bytes
(R116). -/
def Slot.Whole (x : Slot) (dataLength : Nat) : Prop :=
  x.lists.length = dataLength + 2 ∧ x.image.length = dataLength + 2
    ∧ ∀ w, x.witness = some w → w.length = dataLength + 2

/-- The framer holds a confidence for every byte of the field in progress; in GAP, in a MARK entered from it and in
DATA it holds an ID, and a data field in progress is short of L+2 bytes (R13 to R17). -/
def Framer.Whole (f : Framer) : Prop :=
  f.confidences.length = f.bytes.length
    ∧ (f.mode = .gap ∨ (f.mode = .mark ∧ f.markFromGap = true) → f.heldId.isSome = true)
    ∧ (f.mode = .data → ∃ h, f.heldId = some h ∧ f.bytes.length < h.dataLength + 2)

/-- Every framer, every attempt queued or in hand and every entry's slot is whole, and the attempt in hand has its
entry's data length (R73, R82, R104, R116). -/
def State.RecordsWhole (s : State) : Prop :=
  (∀ i : Fin 4, (s.lanes[i]).framer.Whole ∧ ∀ a ∈ (s.lanes[i]).queue, a.Whole)
    ∧ (∀ i e, Table.get s.entries i = some e → ∃ x, Table.get s.slots i = some x ∧ x.Whole e.dataLength)
    ∧ ∀ h, s.engine.hand = some h →
        h.attempt.Whole ∧ ∀ e, Table.get s.entries h.entry = some e → e.dataLength = h.attempt.dataLength

/-! ## Witnesses and statuses -/

/-- The status that R152 derives from an entry's witness state. -/
def Entry.derivedStatus (e : Entry) (witness : Option (List Byte)) : Status :=
  if e.conflictRecorded = true then .conflict
  else if witness = none then .opened
  else if e.target ≤ e.confirmations then .settled
  else .provisional

/-- An entry's origin is NONE exactly while it has no witness, and its confirmations are then 0; confirmations do not
exceed 15; a set vote-confirm flag goes with a strong witness and a recorded conflict with a witness; and an entry
that is not busy has the status R152 derives (R132, R144, R152). -/
def State.StatusFollowsWitness (s : State) : Prop :=
  ∀ i e x, Table.get s.entries i = some e → Table.get s.slots i = some x →
    (e.origin = .none ↔ x.witness = none)
      ∧ (x.witness = none → e.confirmations = 0)
      ∧ e.confirmations ≤ 15
      ∧ (e.voteConfirm = true → 1 ≤ e.confirmations)
      ∧ (e.conflictRecorded = true → x.witness ≠ none)
      ∧ (e.busy = false → e.status = e.derivedStatus x.witness)

/-! ## Evidence -/

/-- A candidate list is ranked: at most three candidates with distinct values and weights from 1 to 255, in order
of non-increasing weight (R125). -/
def Ranked (l : List Candidate) : Prop :=
  l.length ≤ 3 ∧ (l.map (·.value)).Nodup ∧ (∀ c ∈ l, 1 ≤ c.weight ∧ c.weight ≤ 255)
    ∧ l.Pairwise (fun a b => b.weight ≤ a.weight)

/-- Byte confidences lie in 0 to 15 wherever the part holds them (in a field in progress, an ID held, a queued attempt
and the attempt in hand), so do the CRC bonus and its latched copy, and every candidate list in candidate memory is
ranked (R14, R47, R76, R123, R125). -/
def State.EvidenceSound (s : State) : Prop :=
  (∀ i : Fin 4, ∀ c ∈ (s.lanes[i]).framer.confidences, c ≤ 15)
    ∧ (∀ i : Fin 4, ∀ h, (s.lanes[i]).framer.heldId = some h → ∀ c ∈ h.confidences, c ≤ 15)
    ∧ (∀ i : Fin 4, ∀ a ∈ (s.lanes[i]).queue, ∀ c ∈ a.confidences, c ≤ 15)
    ∧ (∀ h, s.engine.hand = some h → ∀ c ∈ h.attempt.confidences, c ≤ 15)
    ∧ s.settings.crcBonus ≤ 15 ∧ s.engine.bonus ≤ 15
    ∧ (∀ x ∈ s.slots, ∀ l ∈ x.2.lists, Ranked l)

/-! ## Reset -/

/-- RESET_N is low and every block stands at its reset values, each port's transaction closed or abandoned (R185, R186).
Candidate memory, the queue of waiting commands and the free-value counts are as they may be. -/
def State.HeldInReset (s : State) : Prop :=
  s = { State.reset with
        slots := s.slots, lanes := s.lanes, engine := s.engine, bay := s.bay, station := s.station
        resetLow := true, pending := s.pending }
    ∧ (∀ i : Fin 4, s.lanes[i] = { Lane.reset with freeCount := (s.lanes[i]).freeCount })
    ∧ s.engine = { Engine.reset with freeCount := s.engine.freeCount }
    ∧ ∀ p, s.port p = { Port.reset with phase := (s.port p).phase }
        ∧ ((s.port p).phase = .closed ∨ (s.port p).phase = .abandoned)

/-! ## Stored fields -/

/-- Every settings field lies in its range (R179). -/
def Settings.InRange (t : Settings) : Prop :=
  (1 ≤ t.grantBurst ∧ t.grantBurst ≤ 6) ∧ (1 ≤ t.confirmTarget ∧ t.confirmTarget ≤ 4) ∧ t.crcBonus ≤ 15
    ∧ t.contestMargin ≤ 63 ∧ t.repairDepth ≤ 4 ∧ (1 ≤ t.voteQuorum ∧ t.voteQuorum ≤ 15) ∧ t.trustFloor ≤ 15
    ∧ (1 ≤ t.seekLimit ∧ t.seekLimit ≤ 15) ∧ t.lowThreshold ≤ 4095

/-- Every profile field lies in its range (R1). -/
def Profile.InRange (p : Profile) : Prop :=
  (640 ≤ p.cellPeriod ∧ p.cellPeriod ≤ 6400) ∧ (100000 ≤ p.revPeriod ∧ p.revPeriod ≤ 400000)
    ∧ (1 ≤ p.markRepeat ∧ p.markRepeat ≤ 3) ∧ (4 ≤ p.idLength ∧ p.idLength ≤ 6) ∧ p.cylPos ≤ 5
    ∧ (1 ≤ p.cylWidth ∧ p.cylWidth ≤ 2) ∧ p.headPos ≤ 5 ∧ p.sectorPos ≤ 5 ∧ (∀ k, p.sizePos = some k → k ≤ 5)
    ∧ p.lengthCode ≤ 4 ∧ (8 ≤ p.gapLimit ∧ p.gapLimit ≤ 255) ∧ p.crcMarkCount ≤ 3

/-- Every preset field lies in its range (R48). -/
def Preset.InRange (x : Preset) : Prop := x.gain ≤ 4 ∧ x.tolerance ≤ 3 ∧ -4 ≤ x.bias ∧ x.bias ≤ 4

/-- A schedule copy's slot count and frame length lie in their ranges (R52). -/
def Schedule.InRange (x : Schedule) : Prop :=
  (1 ≤ x.slotCount ∧ x.slotCount ≤ 16) ∧ (1 ≤ x.frameLength ∧ x.frameLength ≤ 255)

/-- Every field a master can write lies in its range, in both copies of every schedule (R1, R48, R52, R179). -/
def State.FieldsInRange (s : State) : Prop :=
  s.settings.InRange ∧ (∀ n : Fin 8, (s.profiles[n]).InRange) ∧ (∀ n : Fin 16, (s.presets[n]).InRange)
    ∧ ∀ i : Fin 4, (s.lanes[i]).schedule.active.InRange ∧ (s.lanes[i]).schedule.staged.InRange

/-- A descriptor's revolutions, settle value and cell override lie in their ranges (R58). -/
def Descriptor.InRange (d : Descriptor) : Prop :=
  (1 ≤ d.revolutions ∧ d.revolutions ≤ 63) ∧ d.settle ≤ 7 ∧ ∀ c, d.cellOverride = some c → 640 ≤ c ∧ c ≤ 6400

/-- The cell clock of a lane is in range: its descriptors are; the latched gain, tolerance and bias are a preset's; on a
lane that is not IDLE the effective cell period lies within a sixteenth of the profiles' range; and intervals are measured
in CAPTURING and FINISHING only, with the current cell period within an eighth of that (R31, R33, R38, R39, R44, R48). -/
def Lane.ClockInRange (l : Lane) : Prop :=
  (∀ d, l.active = some d ∨ l.chain = some d → d.InRange)
    ∧ (l.separator.gain ≤ 4 ∧ l.separator.tolerance ≤ 3 ∧ -4 ≤ l.separator.bias ∧ l.separator.bias ≤ 4)
    ∧ (l.state ≠ .idle → 600 ≤ l.timing.ceff ∧ l.timing.ceff ≤ 6800)
    ∧ (l.interval ≠ none →
        (l.state = .capturing ∨ l.state = .finishing) ∧ 525 ≤ l.separator.ccur ∧ l.separator.ccur ≤ 7650)

/-- Every lane's cell clock is in range. -/
def State.ClocksInRange (s : State) : Prop := ∀ i : Fin 4, (s.lanes[i]).ClockInRange

end Sys2Proof.Machine
end

