-- ==== Sys2Proof/Certificates/Slice0/Obligations.lean ====
section
/-! DEFINITION. The statements about the part, for the provers. -/

open Sys2Proof Sys2Proof.Machine

/-! ## Steps -/

/-- A step takes the command at the front of the queue and runs it with the queue's rest. The queue is the model's own
(log entries 1 and 5). -/
def Obligations.StepTakesTheFrontCommand : Prop :=
  ∀ (c : Instr) (rest : List Instr) (s : State),
    step { s with pending := c :: rest } = exec c { s with pending := rest }

/-- Every command completes with a next state, and none touches the queue of waiting commands. That an event whose
condition does not hold leaves the state as it is, is the model's choice (log entry 1). -/
def Obligations.EveryCommandCompletesAndKeepsTheQueue : Prop :=
  ∀ (c : Instr) (s : State), ∃ t, exec c s = .next t ∧ t.pending = s.pending

/-- With no command waiting, a step lets one tick of the capture clock pass at every lane and changes nothing else. A lane
whose timer already stands at its bound first does what that timer's timeout does. That a step does so is the model's
choice (log entries 3 and 4); what a tick does at a lane is R24's and R38's. -/
def Obligations.AnEmptyQueueLetsOneTickPass : Prop :=
  ∀ s : State, s.pending = [] →
    ∃ t, step s = .next t ∧ t = { s with lanes := t.lanes }
      ∧ ∀ i : Fin 4,
          let n := (s.laneProfile s.lanes[i]).revPeriod
          (s.onTime i n 1 ∨ (s.lanes[i]).active = none → t.lanes[i] = s.laneAfter i n 1)
            ∧ ((s.lanes[i]).active ≠ none →
                (s.intervalEnds i n 0 →
                  ∃ s1 t1, exec (.intervalTimeout i 0) s = .next s1 ∧ step s1 = .next t1 ∧ t.lanes[i] = t1.lanes[i])
                  ∧ (s.indexExpires i n 0 →
                      ∃ s1 t1, exec (.noIndexTimeout i 0) s = .next s1 ∧ step s1 = .next t1
                        ∧ t.lanes[i] = t1.lanes[i]))

/-! ## Transactions -/

/-- R170 to R173, R185, R186: a falling chip select opens a transaction, and the status byte captured there shows attention
in bit 7, the last result, by R173's codes 0 to 6, in bits 6 to 4 and the busy engine in bit 3; while RESET_N is low the
transaction is ignored. The data-out line carries that byte and then 00h until the command is taken, then the bytes of
the response and 00h after them, the window bytes read, 00h for each window byte written, and FFh in a transaction that a
reset has abandoned, after a rise of RESET_N within it by the model's choice (log entry 24); with chip select high it is
not driven. -/
def Obligations.ChipSelectFallCapturesTheStatusByte : Prop :=
  (∀ (p : PortId) (s : State), (s.port p).phase = .closed →
    (s.resetLow = false →
      ∃ b : Byte,
        exec (.chipSelectFall p) s = .next (s.setPort p { s.port p with phase := .command b })
          ∧ b.toNat =
              (if (s.port p).flags &&& (s.port p).mask = 0 then 0 else 128) + 16 * (s.port p).lastResult.code
                + (if s.engine.phase = .idle then 0 else 8))
      ∧ (s.resetLow = true →
          exec (.chipSelectFall p) s = .next (s.setPort p { s.port p with phase := .abandoned })))
    ∧ ([.ok, .busy, .refused, .range, .notFound, .unknown, .cut] : List ResultCode).map ResultCode.code =
        [0, 1, 2, 3, 4, 5, 6]
    ∧ ∀ k : Nat,
        Phase.closed.shiftsOut k = none
          ∧ (∀ status, (Phase.command status).shiftsOut k = some (if k = 0 then status else 0))
          ∧ (∀ out copy,
              (k < out.length → (Phase.response out copy).shiftsOut k = out[k]?)
                ∧ (out.length ≤ k → (Phase.response out copy).shiftsOut k = some 0))
          ∧ (∀ out, k < out.length → (Phase.reading out).shiftsOut k = out[k]?)
          ∧ (∀ out, (Phase.writing out).shiftsOut k = some 0)
          ∧ Phase.abandoned.shiftsOut k = some 0xFF

/-- R171, R172, R183, R185: a rise of chip select before the command is taken records CUT and does nothing else; a later rise
closes the transaction and leaves the recorded result and the event flags as they stand; a transaction that a reset
has abandoned ends without a CUT. A code outside the command table gives UNKNOWN and does nothing else. A port takes one
command in a transaction: bytes that spell a command where none is awaited, in the data phase among them, are ignored (at a
port without an open transaction this is log entry 1's choice). -/
def Obligations.ChipSelectRiseAndUnknownCodes : Prop :=
  ∀ (p : PortId) (s : State),
    (s.ready p →
      exec (.transactionCut p) s = .next (s.setPort p { s.port p with lastResult := .cut, phase := .closed })
        ∧ ∀ code : Byte,
            code ∉ ([0x00, 0x01, 0x02, 0x10, 0x11, 0x12, 0x20, 0x21, 0x30, 0x31, 0x40, 0x41, 0x42, 0x48, 0x7E] :
              List Byte) →
            exec (.unknownCommand p code) s = .next (s.answered p .unknown []))
      ∧ (¬ s.ready p → (s.port p).phase ≠ .closed →
          exec (.dataPhaseEnd p) s = .next (s.setPort p { s.port p with phase := .closed }))
      ∧ ((s.port p).phase = .abandoned →
          exec (.transactionCut p) s = .next (s.setPort p { s.port p with phase := .closed }))
      ∧ ∀ (i : Instr) (bytes : List Byte), i.transaction = some (p, bytes) → ¬ s.ready p → exec i s = .next s

/-- R175, R176: STATUS answers OK with the free entry count and the four lane states and changes no state, not even the
last result; SET WINDOW tests space, index and offset, and sets the cursor only when all three are in range; the ten spaces
have the records and the record sizes of R176's table. -/
def Obligations.StatusAnswersAndSetWindowTestsItsArguments : Prop :=
  (List.range 10).map spaceRecords = [1, 8, 16, 4, 4096, 4096, 4096, 4, 8, 512]
    ∧ (List.range 10).map spaceSize = [16, 24, 4, 20, 48, 1026, 6156, 40, 20, 16]
    ∧ ∀ (p : PortId) (s : State), s.ready p →
    exec (.status p) s =
        .next (s.setPort p
          { s.port p with
            phase := .response
              [0, 0, BitVec.ofNat 8 (s.freeEntries / 256), BitVec.ofNat 8 s.freeEntries,
                BitVec.ofNat 8 (s.lanes[0]).state.code, BitVec.ofNat 8 (s.lanes[1]).state.code,
                BitVec.ofNat 8 (s.lanes[2]).state.code, BitVec.ofNat 8 (s.lanes[3]).state.code] none })
      ∧ ∀ (space : Byte) (index offset : Word),
          exec (.setWindow p space index offset) s =
            .next (if 9 < space.toNat ∨ spaceRecords space.toNat ≤ index.toNat
                  ∨ spaceSize space.toNat ≤ offset.toNat then s.answered p .range []
                else
                  (s.setPort p
                    { s.port p with cursor := .point space.toNat index.toNat offset.toNat }).answered p .ok [])

/-- R183: READ EVENTS answers OK with a copy of the port's flag word and clears nothing; once the second response byte
has been shifted out, the flags set in the copy, and no others, are cleared in this port's set, whatever has been raised
since; if chip select rises first, no flag is cleared. -/
def Obligations.ReadEventsClearsOnlyWhatItReported : Prop :=
  ∀ (p : PortId) (s : State),
    (s.ready p →
      exec (.readEvents p) s =
        .next (s.setPort p
          { s.port p with
            lastResult := .ok
            phase := .response [0, 0, (s.port p).flags.extractLsb' 8 8, (s.port p).flags.extractLsb' 0 8]
              (some (s.port p).flags) }))
      ∧ ∀ (out : List Byte) (copy : Word), (s.port p).phase = .response out (some copy) →
          (∃ flags : Word,
            exec (.readEventsClear p) s =
                .next (s.setPort p { s.port p with flags := flags, phase := .response out none })
              ∧ ∀ k < 16, flags.getLsbD k = ((s.port p).flags.getLsbD k && !copy.getLsbD k))
            ∧ exec (.dataPhaseEnd p) s = .next (s.setPort p { s.port p with phase := .closed })

/-- R182, R184: an event raised sets the bit that R182 gives it in both ports' flag sets and changes nothing else; SET EVENT
MASK stores its word with bits 10 to 15 as 0 and gives OK, and the attention line then follows: it is active exactly while
some flag is set both in the flag set and in the mask. -/
def Obligations.EventMaskDrivesTheAttentionLine : Prop :=
  (∀ (e : Event) (s : State),
    s.raise e = { s with bay := (s.raise e).bay, station := (s.raise e).station }
      ∧ ∀ p : PortId,
          (s.raise e).port p = { s.port p with flags := ((s.raise e).port p).flags }
            ∧ ∀ k < 16,
                ((s.raise e).port p).flags.getLsbD k =
                  ((s.port p).flags.getLsbD k
                    || decide (k =
                      (match e with
                        | .passDone l => l.val
                        | .settled => 4
                        | .conflict => 5
                        | .trackDone => 6
                        | .tableLow => 7
                        | .tableFull => 8
                        | .laneFault => 9))))
    ∧ (∀ (p : PortId) (mask : Word) (s : State), s.ready p →
        ∃ stored : Word,
          exec (.setEventMask p mask) s =
              .next ((s.setPort p { s.port p with mask := stored }).answered p .ok [])
            ∧ ∀ k < 16, stored.getLsbD k = (decide (k < 10) && mask.getLsbD k))
    ∧ ∀ x : Port, x.attention = true ↔ ∃ k, k < 16 ∧ x.flags.getLsbD k = true ∧ x.mask.getLsbD k = true

/-! ## The window -/

/-- R172, R173, R176, R177: the ten spaces have the records and the record sizes of R176's table; READ WINDOW and WRITE
WINDOW give OK when taken. Each byte read at the cursor is the byte the table
holds there and leaves the result alone; the cursor moves through the record, into the next record and from the
space's last byte to its end position, where a read gives FFh with RANGE and the cursor stays. Reading changes no table.
A view of the entry in hand during a merge is another statement's. -/
def Obligations.WindowReadsFollowTheCursor : Prop :=
  (List.range 10).map spaceRecords = [1, 8, 16, 4, 4096, 4096, 4096, 4, 8, 512]
    ∧ (List.range 10).map spaceSize = [16, 24, 4, 20, 48, 1026, 6156, 40, 20, 16]
    ∧ ∀ (p : PortId) (s : State),
    (s.ready p →
      exec (.readWindow p) s = .next (s.setPort p { s.port p with lastResult := .ok, phase := .reading [] })
        ∧ exec (.writeWindow p) s = .next (s.setPort p { s.port p with lastResult := .ok, phase := .writing [] }))
      ∧ ∀ out : List Byte, (s.port p).phase = .reading out →
          (∀ space index offset : Nat, (s.port p).cursor = .point space index offset →
            (∀ h, s.engine.hand = some h → s.engine.phase = .merge → space = 6 → index ≠ h.entry) →
            exec (.windowByteRead p) s =
              .next (s.setPort p
                { s.port p with
                  cursor :=
                    if offset + 1 < spaceSize space then .point space index (offset + 1)
                    else if index + 1 < spaceRecords space then .point space (index + 1) 0
                    else .endOf space
                  phase := .reading (out ++ [s.windowByte space index offset]) }))
            ∧ ∀ space : Nat, (s.port p).cursor = .endOf space →
                exec (.windowByteRead p) s =
                  .next (s.setPort p
                    { s.port p with
                      lastResult := if (s.port p).lastResult = .ok then .range else (s.port p).lastResult
                      phase := .reading (out ++ [0xFF]) })

/-- R117, R120: a view byte of the entry in hand, read during its merge, comes from a list that stands as it was or as
the merge leaves it, and every list of the view does; how far the merge has come is a free value (log entry 7), and
nothing outside the slot, the engine's progress and the port changes. -/
def Obligations.ABusyViewShowsOldOrMergedLists : Prop :=
  ∀ (p : PortId) (s : State) (out : List Byte) (h : Hand) (e : Entry) (x : Slot) (offset : Nat),
    s.RecordsWhole → (s.port p).phase = .reading out → s.engine.phase = .merge → s.engine.hand = some h →
    Table.get s.entries h.entry = some e → Table.get s.slots h.entry = some x →
    (s.port p).cursor = .point 6 h.entry offset →
    ∃ (t : State) (y : Slot),
      exec (.windowByteRead p) s = .next t
        ∧ t = { s with bay := t.bay, station := t.station, slots := t.slots, engine := t.engine }
        ∧ t.engine = { s.engine with written := t.engine.written, freeCount := t.engine.freeCount }
        ∧ t.port p.other = s.port p.other
        ∧ t.port p =
            { s.port p with
              cursor := (s.port p).cursor.next, phase := .reading (out ++ [viewByte e y offset]) }
        ∧ Table.get t.slots h.entry = some y ∧ (∀ j, j ≠ h.entry → Table.get t.slots j = Table.get s.slots j)
        ∧ y.witness = x.witness ∧ y.image = x.image
        ∧ s.engine.written ≤ t.engine.written
        ∧ ∀ k < e.dataLength + 2,
            y.lists[k]? =
              if s.engine.written ≤ k ∧ k < t.engine.written then
                some (updateList (h.attempt.bytes.getD k 0)
                  (byteWeight s.engine.bonus h.attempt.crcGood (h.attempt.confidences.getD k 0)) (x.lists.getD k []))
              else x.lists[k]?

/-- R117, R157, R159: the record, image and candidate view of an entry that is not FREE show its fields at the offsets
the tables give, and those of a FREE entry read 00h throughout. -/
def Obligations.WindowShowsEntriesAndTheirSlots : Prop :=
  ∀ (s : State) (i : Nat),
    (Table.get s.entries i = none →
      ∀ offset, s.windowByte 4 i offset = 0 ∧ s.windowByte 5 i offset = 0 ∧ s.windowByte 6 i offset = 0)
      ∧ ∀ e x, Table.get s.entries i = some e → Table.get s.slots i = some x →
          s.windowNumber 4 i 0 1 = e.key.track.volume.val
            ∧ s.windowNumber 4 i 1 2 = e.key.track.cylinder % 65536
            ∧ s.windowNumber 4 i 3 1 = e.key.track.head % 256
            ∧ s.windowNumber 4 i 4 1 = e.key.sector % 256
            ∧ s.windowNumber 4 i 5 1 =
                (match e.status with | .opened => 1 | .provisional => 2 | .settled => 3 | .conflict => 4)
            ∧ (∀ k < 8, (s.windowByte 4 i 6).getLsbD k =
                ([e.busy, e.voteConfirm, e.deleted, e.conflictRecorded].getD k false))
            ∧ s.windowNumber 4 i 7 1 =
                (match e.origin with | .none => 0 | .attempt => 1 | .vote => 2 | .repair => 3)
            ∧ s.windowNumber 4 i 8 1 = e.generation % 256
            ∧ s.windowNumber 4 i 9 2 = e.dataLength % 65536
            ∧ s.windowNumber 4 i 11 2 = e.merged % 65536
            ∧ s.windowNumber 4 i 13 2 = e.crcGood % 65536
            ∧ s.windowNumber 4 i 15 1 = e.confirmations % 256
            ∧ s.windowNumber 4 i 16 1 = e.target % 256
            ∧ s.windowNumber 4 i 17 1 = e.conflicts % 256
            ∧ s.windowNumber 4 i 18 1 = e.replacements % 256
            ∧ s.windowNumber 4 i 19 2 = e.surplus % 65536
            ∧ s.windowNumber 4 i 21 2 = e.mismatches % 65536
            ∧ s.windowNumber 4 i 23 2 = e.blank % 65536
            ∧ s.windowNumber 4 i 25 2 = e.contestedCount % 65536
            ∧ s.windowNumber 4 i 27 1 =
                (match e.repair with | .notTried => 0 | .accepted => 1 | .noneFound => 2 | .ambiguous => 3)
            ∧ s.windowNumber 4 i 28 1 = e.contestedList.length % 256
            ∧ (∀ k < 8, s.windowNumber 4 i (29 + 2 * k) 2 = e.contestedList.getD k 0 % 65536)
            ∧ s.windowNumber 4 i 45 2 = e.unsearched % 65536
            ∧ s.windowNumber 4 i 47 1 = 0
            ∧ (∀ k, s.windowByte 5 i k = if k < e.dataLength + 2 then x.image.getD k 0 else 0)
            ∧ ∀ k j, j < 3 →
                s.windowByte 6 i (6 * k + 2 * j) =
                    (if k < e.dataLength + 2 then ((x.lists.getD k [])[j]?.map (·.value)).getD 0 else 0)
                  ∧ s.windowByte 6 i (6 * k + 2 * j + 1) =
                      (if k < e.dataLength + 2 then
                        ((x.lists.getD k [])[j]?.map fun c => BitVec.ofNat 8 c.weight).getD 0
                      else 0)

/-- R179 to R181: the settings, profile, preset, schedule, lane report, volume and track records show their fields at
the offsets the tables give; a preset's in-force lanes are the lanes that are not IDLE and hold it (R50), and a free track
record reads 00h throughout. -/
def Obligations.WindowShowsTheOtherRecords : Prop :=
  ∀ s : State,
    (s.windowNumber 0 0 0 1 = (if s.settings.rotating then 1 else 0)
      ∧ s.windowNumber 0 0 1 1 = s.settings.grantBurst % 256
      ∧ s.windowNumber 0 0 2 1 = s.settings.confirmTarget % 256
      ∧ s.windowNumber 0 0 3 1 = s.settings.crcBonus % 256
      ∧ s.windowNumber 0 0 4 1 = s.settings.contestMargin % 256
      ∧ s.windowNumber 0 0 5 1 = s.settings.repairDepth % 256
      ∧ s.windowNumber 0 0 6 1 = s.settings.voteQuorum % 256
      ∧ s.windowNumber 0 0 7 1 = s.settings.trustFloor % 256
      ∧ s.windowNumber 0 0 8 1 = s.settings.seekLimit % 256
      ∧ s.windowNumber 0 0 9 2 = s.settings.lowThreshold % 65536
      ∧ s.windowNumber 0 0 11 5 = 0)
      ∧ (∀ n : Fin 8,
          let f := s.profiles[n]
          s.windowNumber 1 n.val 0 1 = (match f.encoding with | .fm => 0 | .mfm => 1 | .gcr => 2)
            ∧ s.windowNumber 1 n.val 1 2 = f.cellPeriod % 65536
            ∧ s.windowNumber 1 n.val 3 3 = f.revPeriod % 16777216
            ∧ s.windowNumber 1 n.val 6 2 = f.markPattern.toNat
            ∧ s.windowByte 1 n.val 8 = f.markValue
            ∧ s.windowNumber 1 n.val 9 1 = f.markRepeat % 256
            ∧ s.windowByte 1 n.val 10 = f.idMark ∧ s.windowByte 1 n.val 11 = f.dataMark
            ∧ s.windowByte 1 n.val 12 = f.deletedMark
            ∧ s.windowNumber 1 n.val 13 1 = f.idLength % 256
            ∧ s.windowNumber 1 n.val 14 1 = f.cylPos % 256 ∧ s.windowNumber 1 n.val 15 1 = f.cylWidth % 256
            ∧ s.windowNumber 1 n.val 16 1 = f.headPos % 256 ∧ s.windowNumber 1 n.val 17 1 = f.sectorPos % 256
            ∧ s.windowNumber 1 n.val 18 1 = (match f.sizePos with | some k => k % 256 | none => 255)
            ∧ s.windowNumber 1 n.val 19 1 = f.lengthCode % 256 ∧ s.windowNumber 1 n.val 20 1 = f.gapLimit % 256
            ∧ s.windowNumber 1 n.val 21 2 = f.crcPreset.toNat
            ∧ s.windowNumber 1 n.val 23 1 = f.crcMarkCount % 256)
      ∧ (∀ n : Fin 16,
          s.windowNumber 2 n.val 0 1 = (s.presets[n]).gain % 256
            ∧ s.windowNumber 2 n.val 1 1 = (s.presets[n]).tolerance % 256
            ∧ s.windowByte 2 n.val 2 = BitVec.ofInt 8 (s.presets[n]).bias
            ∧ (∀ i : Fin 4, (s.windowByte 2 n.val 3).getLsbD i.val = true ↔
                (s.lanes[i]).state ≠ .idle ∧ (s.lanes[i]).separator.presetInForce = n)
            ∧ ∀ k, 4 ≤ k → (s.windowByte 2 n.val 3).getLsbD k = false)
      ∧ (∀ i : Fin 4,
          let x := (s.lanes[i]).schedule
          s.windowNumber 3 i.val 0 1 = x.staged.slotCount % 256
            ∧ s.windowNumber 3 i.val 1 1 = x.staged.frameLength % 256
            ∧ (∀ k : Fin 16, s.windowNumber 3 i.val (2 + k.val) 1 = (x.staged.slots[k]).val)
            ∧ s.windowNumber 3 i.val 18 1 = (if x.pending then 1 else 0)
            ∧ s.windowNumber 3 i.val 19 1 = x.revInSlot % 256)
      ∧ (∀ i : Fin 4,
          let l := s.lanes[i]
          s.windowNumber 7 i.val 0 1 =
              (match l.state with | .idle => 0 | .armed => 1 | .capturing => 2 | .finishing => 3 | .draining => 4)
            ∧ s.windowNumber 7 i.val 1 1 = l.revolutions % 256
            ∧ s.windowNumber 7 i.val 2 1 = l.schedule.slotPosition % 256
            ∧ s.windowNumber 7 i.val 3 1 = l.separator.presetInForce.val
            ∧ s.windowNumber 7 i.val 4 2 = l.timing.cauto % 65536
            ∧ s.windowNumber 7 i.val 6 2 = l.timing.ceff % 65536
            ∧ s.windowNumber 7 i.val 8 3 = l.timing.lastPeriod % 16777216
            ∧ s.windowNumber 7 i.val 11 1 = (if l.chain.isSome then 1 else 0)
            ∧ s.windowNumber 7 i.val 12 2 = l.counts.attempts % 65536
            ∧ s.windowNumber 7 i.val 14 2 = l.counts.overruns % 65536
            ∧ s.windowNumber 7 i.val 16 1 = l.counts.queueDiscards % 256
            ∧ s.windowNumber 7 i.val 17 2 = l.counts.unanchored % 65536
            ∧ s.windowNumber 7 i.val 19 2 = l.counts.idCrcBad % 65536
            ∧ s.windowNumber 7 i.val 21 2 = l.counts.dataCrcGood % 65536
            ∧ s.windowNumber 7 i.val 23 2 = l.counts.syncLosses % 65536
            ∧ s.windowNumber 7 i.val 25 2 = l.counts.codeViolations % 65536
            ∧ s.windowNumber 7 i.val 27 2 = l.counts.strayMarks % 65536
            ∧ s.windowNumber 7 i.val 29 2 = l.counts.orphanIds % 65536
            ∧ s.windowNumber 7 i.val 31 1 = l.counts.seekMismatches % 256
            ∧ s.windowNumber 7 i.val 32 2 = l.counts.outOfGeometry % 65536
            ∧ s.windowNumber 7 i.val 34 1 = l.counts.indexFaults % 256
            ∧ s.windowNumber 7 i.val 35 2 = l.counts.indexGlitches % 65536
            ∧ s.windowNumber 7 i.val 37 1 = l.counts.settledByPass % 256
            ∧ s.windowNumber 7 i.val 38 1 =
                (if l.timing.speedClamp then 1 else 0)
                  + (if 0 < l.counts.overruns ∨ 0 < l.counts.syncLosses ∨ 0 < l.counts.codeViolations then 2 else 0)
            ∧ s.windowNumber 7 i.val 39 1 =
                (match l.outcome with
                  | none => 0 | some .complete => 1 | some .aborted => 2 | some .noIndex => 3
                  | some .seekMismatch => 4))
      ∧ (∀ n : Fin 8,
          let v := s.volumes[n]
          s.windowNumber 8 n.val 0 1 = (if v.isOpen then 1 else 0) ∧ s.windowNumber 8 n.val 1 1 = v.profile.val
            ∧ s.windowNumber 8 n.val 2 2 = v.cylinders % 65536 ∧ s.windowNumber 8 n.val 4 1 = v.heads % 256
            ∧ s.windowNumber 8 n.val 5 1 = v.firstSector % 256
            ∧ s.windowNumber 8 n.val 6 1 = v.sectorsPerTrack % 256
            ∧ s.windowNumber 8 n.val 7 2 = v.live % 65536 ∧ s.windowNumber 8 n.val 9 2 = v.settled % 65536
            ∧ s.windowNumber 8 n.val 11 3 = v.released % 16777216
            ∧ s.windowNumber 8 n.val 14 2 = v.tracksDone % 65536
            ∧ s.windowNumber 8 n.val 16 2 = v.tableFull % 65536 ∧ s.windowNumber 8 n.val 18 2 = v.surplus % 65536)
      ∧ ∀ j,
          (Table.get s.tracks j = none → ∀ offset, s.windowByte 9 j offset = 0)
            ∧ ∀ t, Table.get s.tracks j = some t →
                s.windowNumber 9 j 0 1 = (if t.done then 3 else 1)
                  ∧ s.windowNumber 9 j 1 1 = t.key.volume.val
                  ∧ s.windowNumber 9 j 2 2 = t.key.cylinder % 65536 ∧ s.windowNumber 9 j 4 1 = t.key.head % 256
                  ∧ s.windowNumber 9 j 5 1 = t.settled % 256 ∧ s.windowNumber 9 j 6 1 = t.released % 256
                  ∧ s.windowNumber 9 j 7 1 = t.live % 256
                  ∧ s.windowNumber 9 j 8 8 = t.releasedSet.toNat

/-- R178, R179: a byte written into the settings block is stored and its field clamped to its range, the two-byte field
as a whole after each byte; bytes 11 to 15 are discarded and leave the result alone. Nothing else changes, so a write
never reaches a value already latched; and after a reset the block holds its reset values. -/
def Obligations.SettingsBytesAreStoredAndClamped : Prop :=
  (∀ (p : PortId) (s : State) (out : List Byte) (index offset : Nat) (b : Byte),
    s.settings.lowThreshold ≤ 4095 → s.writingAt p out 0 index offset →
    exec (.settingsWrite p b) s =
      .next (({ s with
        settings :=
          if offset = 0 then { s.settings with rotating := decide (b ≠ 0) }
          else if offset = 1 then { s.settings with grantBurst := max 1 (min 6 b.toNat) }
          else if offset = 2 then { s.settings with confirmTarget := max 1 (min 4 b.toNat) }
          else if offset = 3 then { s.settings with crcBonus := min 15 b.toNat }
          else if offset = 4 then { s.settings with contestMargin := min 63 b.toNat }
          else if offset = 5 then { s.settings with repairDepth := min 4 b.toNat }
          else if offset = 6 then { s.settings with voteQuorum := max 1 (min 15 b.toNat) }
          else if offset = 7 then { s.settings with trustFloor := min 15 b.toNat }
          else if offset = 8 then { s.settings with seekLimit := max 1 (min 15 b.toNat) }
          else if offset = 9 then
            { s.settings with lowThreshold := min 4095 (256 * b.toNat + s.settings.lowThreshold % 256) }
          else if offset = 10 then
            { s.settings with lowThreshold := min 4095 (256 * (s.settings.lowThreshold / 256) + b.toNat) }
          else s.settings }).wroteByte p out .ok))
    ∧ State.reset.settings = ⟨false, 1, 2, 8, 6, 3, 3, 10, 2, 256⟩

/-- R2, R4: a byte written into a profile that no OPEN volume names is stored and the field it belongs to is clamped as a
whole to its range, the size-code position to FFh; a byte written into a profile in use is discarded with REFUSED. -/
def Obligations.ProfileBytesAreClampedOrRefused : Prop :=
  ∀ (p : PortId) (s : State) (out : List Byte) (n : Fin 8) (offset : Nat) (b : Byte),
    s.writingAt p out 1 n.val offset →
    ((∃ v : Fin 8, (s.volumes[v]).isOpen = true ∧ (s.volumes[v]).profile = n) →
      exec (.profileWrite p b) s = .next (s.wroteByte p out .refused))
      ∧ ((∀ v : Fin 8, (s.volumes[v]).isOpen = true → (s.volumes[v]).profile ≠ n) → (s.profiles[n]).InRange →
          let f := s.profiles[n]
          exec (.profileWrite p b) s =
            .next (({ s with
              profiles := s.profiles.set n
                (if offset = 0 then
                  { f with encoding := if b.toNat = 0 then .fm else if b.toNat = 1 then .mfm else .gcr }
                else if offset = 1 then
                  { f with cellPeriod := max 640 (min 6400 (256 * b.toNat + f.cellPeriod % 256)) }
                else if offset = 2 then
                  { f with cellPeriod := max 640 (min 6400 (256 * (f.cellPeriod / 256) + b.toNat)) }
                else if offset = 3 then
                  { f with revPeriod := max 100000 (min 400000 (65536 * b.toNat + f.revPeriod % 65536)) }
                else if offset = 4 then
                  { f with
                    revPeriod :=
                      max 100000
                        (min 400000 (65536 * (f.revPeriod / 65536) + 256 * b.toNat + f.revPeriod % 256)) }
                else if offset = 5 then
                  { f with revPeriod := max 100000 (min 400000 (256 * (f.revPeriod / 256) + b.toNat)) }
                else if offset = 6 then { f with markPattern := b ++ f.markPattern.extractLsb' 0 8 }
                else if offset = 7 then { f with markPattern := f.markPattern.extractLsb' 8 8 ++ b }
                else if offset = 8 then { f with markValue := b }
                else if offset = 9 then { f with markRepeat := max 1 (min 3 b.toNat) }
                else if offset = 10 then { f with idMark := b }
                else if offset = 11 then { f with dataMark := b }
                else if offset = 12 then { f with deletedMark := b }
                else if offset = 13 then { f with idLength := max 4 (min 6 b.toNat) }
                else if offset = 14 then { f with cylPos := min 5 b.toNat }
                else if offset = 15 then { f with cylWidth := max 1 (min 2 b.toNat) }
                else if offset = 16 then { f with headPos := min 5 b.toNat }
                else if offset = 17 then { f with sectorPos := min 5 b.toNat }
                else if offset = 18 then { f with sizePos := if b.toNat < 6 then some b.toNat else none }
                else if offset = 19 then { f with lengthCode := min 4 b.toNat }
                else if offset = 20 then { f with gapLimit := max 8 b.toNat }
                else if offset = 21 then { f with crcPreset := b ++ f.crcPreset.extractLsb' 0 8 }
                else if offset = 22 then { f with crcPreset := f.crcPreset.extractLsb' 8 8 ++ b }
                else if offset = 23 then { f with crcMarkCount := min 3 b.toNat }
                else f) }).wroteByte p out .ok))

/-- R49, R53, R178: a byte written into a preset's gain, tolerance or bias is stored and clamped, in every state of the
part, and lanes keep what they have latched; a byte written into a schedule record goes to the staged copy, clamped,
and sets the pending flag, while the active copy keeps its values; bytes to the read-only fields of both records are
discarded and leave the result alone. A byte written into one of the read-only spaces 4 to 9 is discarded with REFUSED and
the cursor moves past it; one written at a space's end position is discarded with RANGE and the cursor stays. -/
def Obligations.PresetScheduleAndReadOnlyBytes : Prop :=
  ∀ (p : PortId) (s : State) (out : List Byte) (offset : Nat) (b : Byte),
    (∀ n : Fin 16, s.writingAt p out 2 n.val offset →
      let x := s.presets[n]
      exec (.presetWrite p b) s =
        .next (({ s with
          presets := s.presets.set n
            (if offset = 0 then { x with gain := min 4 b.toNat }
            else if offset = 1 then { x with tolerance := min 3 b.toNat }
            else if offset = 2 then { x with bias := max (-4) (min 4 b.toInt) }
            else x) }).wroteByte p out .ok))
      ∧ (∀ i : Fin 4, s.writingAt p out 3 i.val offset →
          let x := (s.lanes[i]).schedule
          exec (.scheduleWrite p b) s =
            .next ((s.setLane i
              { s.lanes[i] with
                schedule :=
                  if offset = 0 then
                    { x with staged := { x.staged with slotCount := max 1 (min 16 b.toNat) }, pending := true }
                  else if offset = 1 then
                    { x with staged := { x.staged with frameLength := max 1 b.toNat }, pending := true }
                  else if offset < 18 then
                    { x with
                      staged :=
                        { x.staged with
                          slots := x.staged.slots.setIfInBounds (offset - 2) (Fin.ofNat 16 (min 15 b.toNat)) }
                      pending := true }
                  else x }).wroteByte p out .ok))
      ∧ (∀ space index place : Nat, 4 ≤ space → s.writingAt p out space index place →
          exec (.windowByteWrite p b) s = .next (s.wroteByte p out .refused))
      ∧ ∀ space : Nat, (s.port p).phase = .writing out → (s.port p).cursor = .endOf space →
          exec (.windowByteWrite p b) s =
            .next (s.setPort p
              { s.port p with
                lastResult := if (s.port p).lastResult = .ok then .range else (s.port p).lastResult
                phase := .writing (out ++ [0]) })

/-! ## Volumes and passes -/

/-- R96, R4: OPEN VOLUME tests its arguments' ranges (RANGE) and then that the volume is FREE (REFUSED), a failed test
changing nothing; otherwise the volume becomes OPEN with the profile and geometry given and its six counts 0, and the
profile is in use. -/
def Obligations.OpenVolumeTestsAndOpens : Prop :=
  ∀ (p : PortId) (volume profile : Byte) (cylinders : Word) (heads first perTrack : Byte) (s : State), s.ready p →
    ((7 < volume.toNat ∨ 7 < profile.toNat ∨ cylinders.toNat = 0 ∨ 1024 < cylinders.toNat ∨ heads.toNat = 0
        ∨ 8 < heads.toNat ∨ perTrack.toNat = 0 ∨ 64 < perTrack.toNat ∨ 256 < first.toNat + perTrack.toNat) →
      exec (.openVolume p volume profile cylinders heads first perTrack) s = .next (s.answered p .range []))
      ∧ ∀ v n : Fin 8, volume.toNat = v.val → profile.toNat = n.val →
          1 ≤ cylinders.toNat → cylinders.toNat ≤ 1024 → 1 ≤ heads.toNat → heads.toNat ≤ 8 →
          1 ≤ perTrack.toNat → perTrack.toNat ≤ 64 → first.toNat + perTrack.toNat ≤ 256 →
          ((s.volumes[v]).isOpen = true →
            exec (.openVolume p volume profile cylinders heads first perTrack) s = .next (s.answered p .refused []))
            ∧ ((s.volumes[v]).isOpen = false →
                ∃ t,
                  exec (.openVolume p volume profile cylinders heads first perTrack) s = .next t
                    ∧ t =
                        (s.setVolume v
                          ⟨true, n, cylinders.toNat, heads.toNat, first.toNat, perTrack.toNat, 0, 0, 0, 0, 0,
                            0⟩).answered p .ok []
                    ∧ t.profileInUse n = true)

/-- R97: CLOSE VOLUME tests the volume's number (RANGE), that it is OPEN (REFUSED) and that no descriptor and no attempt
in the engine names it (BUSY), a failed test changing nothing; otherwise its entries and track records are freed, its
state becomes FREE with live and settled entries 0 and its other fields kept, and the free entry count grows by the
entries freed, re-arming the table-low warning as R110 gives. -/
def Obligations.CloseVolumeTestsAndFrees : Prop :=
  ∀ (p : PortId) (volume : Byte) (s : State), s.ready p →
    (7 < volume.toNat → exec (.closeVolume p volume) s = .next (s.answered p .range []))
      ∧ ∀ v : Fin 8, volume.toNat = v.val →
          ((s.volumes[v]).isOpen = false → exec (.closeVolume p volume) s = .next (s.answered p .refused []))
            ∧ ((s.volumes[v]).isOpen = true →
                ((∃ (i : Fin 4) (d : Descriptor),
                    ((s.lanes[i]).active = some d ∨ (s.lanes[i]).chain = some d) ∧ d.volume = v)
                  ∨ (∃ h, s.engine.hand = some h ∧ h.attempt.key.track.volume = v)) →
                exec (.closeVolume p volume) s = .next (s.answered p .busy []))
            ∧ ((s.volumes[v]).isOpen = true →
                (∀ (i : Fin 4) (d : Descriptor),
                  (s.lanes[i]).active = some d ∨ (s.lanes[i]).chain = some d → d.volume ≠ v) →
                (∀ h, s.engine.hand = some h → h.attempt.key.track.volume ≠ v) →
                let freed := (s.entries.filter fun e => e.2.key.track.volume == v).length
                exec (.closeVolume p volume) s =
                  .next (({ s with
                    entries := s.entries.filter fun e => e.2.key.track.volume != v
                    tracks := s.tracks.filter fun t => t.2.key.volume != v
                    volumes := s.volumes.set v { s.volumes[v] with isOpen := false, live := 0, settled := 0 }
                    freeEntries := s.freeEntries + freed
                    lowWarning :=
                      if freed ≠ 0 ∧ s.settings.lowThreshold ≤ s.freeEntries + freed then false
                      else s.lowWarning }).answered p .ok []))

/-- R59, R60, R174: POST PASS makes its tests in order (RANGE, REFUSED, RANGE, BUSY) and a failed test changes nothing; on
a lane that is not IDLE and whose chain slot is empty a descriptor that passes them goes into the chain slot, with an
override clamped to 640 to 6400 and 0 held as absent (R58). -/
def Obligations.PostPassTestsAndChains : Prop :=
  ∀ (p : PortId) (laneVolume : Byte) (cylinder : Word) (head revolutions settle selector : Byte)
    (cellOverride : Word) (s : State), s.ready p →
    let run := exec (.postPass p laneVolume cylinder head revolutions settle selector cellOverride) s
    ((3 < laneVolume.toNat / 16 ∨ 7 < laneVolume.toNat % 16 ∨ revolutions.toNat = 0 ∨ 63 < revolutions.toNat
        ∨ 7 < settle.toNat ∨ 16 < selector.toNat) →
      run = .next (s.answered p .range []))
      ∧ ∀ (i : Fin 4) (v : Fin 8), laneVolume.toNat = 16 * i.val + v.val →
          1 ≤ revolutions.toNat → revolutions.toNat ≤ 63 → settle.toNat ≤ 7 → selector.toNat ≤ 16 →
          ((s.volumes[v]).isOpen = false → run = .next (s.answered p .refused []))
            ∧ ((s.volumes[v]).isOpen = true →
                ((s.volumes[v]).cylinders ≤ cylinder.toNat ∨ (s.volumes[v]).heads ≤ head.toNat) →
                run = .next (s.answered p .range []))
            ∧ ((s.volumes[v]).isOpen = true → cylinder.toNat < (s.volumes[v]).cylinders →
                head.toNat < (s.volumes[v]).heads → (s.lanes[i]).state ≠ .idle →
                ((s.lanes[i]).chain ≠ none → run = .next (s.answered p .busy []))
                  ∧ ((s.lanes[i]).chain = none →
                      run =
                        .next ((s.setLane i
                          { s.lanes[i] with
                            chain := some
                              { volume := v, cylinder := cylinder.toNat, head := head.toNat
                                revolutions := revolutions.toNat, settle := settle.toNat
                                preset := if selector.toNat < 16 then some (Fin.ofNat 16 selector.toNat) else none
                                cellOverride :=
                                  if cellOverride.toNat = 0 then none
                                  else some (max 640 (min 6400 cellOverride.toNat)) } }).answered p .ok [])))

/-- R23, R36, R55, R60, R62: a descriptor posted on an IDLE lane becomes active at once: the lane enters ARMED with its
timing state, counts, ending cause and revolution count started afresh, adopts a pending schedule, returns to slot 0,
and latches the preset in force; its framer, interval, Ccur, outcome and queue stand as they did. -/
def Obligations.PostPassActivatesAnIdleLane : Prop :=
  ∀ (p : PortId) (laneVolume : Byte) (cylinder : Word) (head revolutions settle selector : Byte)
    (cellOverride : Word) (s : State) (i : Fin 4) (v : Fin 8), s.ready p → laneVolume.toNat = 16 * i.val + v.val →
    1 ≤ revolutions.toNat → revolutions.toNat ≤ 63 → settle.toNat ≤ 7 → selector.toNat ≤ 16 →
    (s.volumes[v]).isOpen = true → cylinder.toNat < (s.volumes[v]).cylinders → head.toNat < (s.volumes[v]).heads →
    (s.lanes[i]).state = .idle →
    let d : Descriptor :=
      { volume := v, cylinder := cylinder.toNat, head := head.toNat, revolutions := revolutions.toNat
        settle := settle.toNat
        preset := if selector.toNat < 16 then some (Fin.ofNat 16 selector.toNat) else none
        cellOverride := if cellOverride.toNat = 0 then none else some (max 640 (min 6400 cellOverride.toNat)) }
    exec (.postPass p laneVolume cylinder head revolutions settle selector cellOverride) s =
      .next ((s.setLane i (s.activatedLane s.lanes[i] d)).answered p .ok [])

/-- R70, R71, R92: ABORT PASS gives RANGE for a lane above 3 and REFUSED for a lane in IDLE, changing nothing; in any other
state the framer is stopped with its field and ID uncounted, the open interval goes, the ending cause becomes ABORTED if
none is recorded, the queue and the chain slot are emptied as the two flags say, every queued attempt counted as a
discard, and the lane is in DRAINING. A discard that empties the burst owner's queue ends the burst; that the latched mode
and burst then keep their values, and what the stopped framer's own counts hold, are the model's choices (log entries 22 and
26). -/
def Obligations.AbortPassStopsTheLane : Prop :=
  ∀ (p : PortId) (lane flags : Byte) (s : State), s.ready p →
    (3 < lane.toNat → exec (.abortPass p lane flags) s = .next (s.answered p .range []))
      ∧ ∀ i : Fin 4, lane.toNat = i.val →
          ((s.lanes[i]).state = .idle → exec (.abortPass p lane flags) s = .next (s.answered p .refused []))
            ∧ ((s.lanes[i]).state ≠ .idle →
                let l := s.lanes[i]
                let discard := flags.toNat % 2 = 1
                let ends := discard ∧ s.arbiter.owner = some i ∧ l.queue ≠ []
                exec (.abortPass p lane flags) s =
                  .next (({ s.setLane i
                    { l with
                      framer :=
                        { l.framer with
                          mode := .stopped, finishing := false, heldId := none, gapCount := 0, markFromGap := false
                          cells := [], bytes := [], confidences := [] }
                      interval := none
                      request := none
                      cause := if l.cause = none then some .aborted else l.cause
                      state := .draining
                      queue := if discard then [] else l.queue
                      counts :=
                        { l.counts with
                          queueDiscards :=
                            if discard then
                              (if l.counts.queueDiscards + l.queue.length ≤ 255 then
                                l.counts.queueDiscards + l.queue.length
                              else max l.counts.queueDiscards 255)
                            else l.counts.queueDiscards }
                      chain := if flags.toNat / 2 % 2 = 1 then none else l.chain } with
                    arbiter :=
                      if ends then
                        { s.arbiter with
                          owner := none
                          served := 0
                          order :=
                            if s.arbiter.rotating then s.arbiter.order.filter (· != i) ++ [i]
                            else s.arbiter.order }
                      else s.arbiter }).answered p .ok []))

/-! ## Table commands -/

/-- R112: LOCATE makes its tests in order and answers with an entry index and a status code; it changes nothing. -/
def Obligations.LocateAnswersFromTheTables : Prop :=
  ∀ (p : PortId) (volume : Byte) (cylinder : Word) (head sector : Byte) (s : State), s.ready p →
    let run := exec (.locate p volume cylinder head sector) s
    (7 < volume.toNat → run = .next (s.answered p .range [0xFF, 0xFF, 0xFF]))
      ∧ ∀ v : Fin 8, volume.toNat = v.val →
          let x := s.volumes[v]
          let k : SectorKey := ⟨⟨v, cylinder.toNat, head.toNat⟩, sector.toNat⟩
          (x.isOpen = false → run = .next (s.answered p .refused [0xFF, 0xFF, 0xFF]))
            ∧ (x.isOpen = true →
                (x.cylinders ≤ cylinder.toNat ∨ x.heads ≤ head.toNat ∨ sector.toNat < x.firstSector
                  ∨ x.firstSector + x.sectorsPerTrack ≤ sector.toNat) →
                run = .next (s.answered p .range [0xFF, 0xFF, 0xFF]))
            ∧ (x.isOpen = true → cylinder.toNat < x.cylinders → head.toNat < x.heads →
                x.firstSector ≤ sector.toNat → sector.toNat < x.firstSector + x.sectorsPerTrack →
                s.KeysDistinct →
                (∀ i e, (i, e) ∈ s.entries → e.key = k →
                    run =
                      .next (s.answered p .ok
                        [BitVec.ofNat 8 (i / 256), BitVec.ofNat 8 i,
                          (match e.status with | .opened => 1 | .provisional => 2 | .settled => 3 | .conflict => 4)]))
                  ∧ ((∀ e ∈ s.entries, e.2.key ≠ k) →
                      ((∃ t ∈ s.tracks, t.2.key = k.track
                          ∧ t.2.releasedSet.getLsbD (sector.toNat - x.firstSector) = true) →
                        run = .next (s.answered p .notFound [0xFF, 0xFF, 5]))
                        ∧ ((∀ t ∈ s.tracks, t.2.key = k.track →
                              t.2.releasedSet.getLsbD (sector.toNat - x.firstSector) = false) →
                            run = .next (s.answered p .notFound [0xFF, 0xFF, 0]))))

/-- R113: QUERY TRACK makes its tests in order and answers with the sectors per track and one status byte for each sector
from the first upward; it changes nothing. -/
def Obligations.QueryTrackListsEverySector : Prop :=
  ∀ (p : PortId) (volume : Byte) (cylinder : Word) (head : Byte) (s : State), s.ready p →
    let run := exec (.queryTrack p volume cylinder head) s
    (7 < volume.toNat → run = .next (s.answered p .range [0]))
      ∧ ∀ v : Fin 8, volume.toNat = v.val →
          let x := s.volumes[v]
          (x.isOpen = false → run = .next (s.answered p .refused [0]))
            ∧ (x.isOpen = true → (x.cylinders ≤ cylinder.toNat ∨ x.heads ≤ head.toNat) →
                run = .next (s.answered p .range [0]))
            ∧ (x.isOpen = true → cylinder.toNat < x.cylinders → head.toNat < x.heads → s.KeysDistinct →
                ∃ codes : List Byte,
                  run = .next (s.answered p .ok (BitVec.ofNat 8 x.sectorsPerTrack :: codes))
                    ∧ codes.length = x.sectorsPerTrack
                    ∧ ∀ j < x.sectorsPerTrack,
                        let k : SectorKey := ⟨⟨v, cylinder.toNat, head.toNat⟩, x.firstSector + j⟩
                        (∀ i e, (i, e) ∈ s.entries → e.key = k →
                            codes[j]? =
                              some (match e.status with
                                | .opened => 1 | .provisional => 2 | .settled => 3 | .conflict => 4))
                          ∧ ((∀ e ∈ s.entries, e.2.key ≠ k) →
                              ((∃ t ∈ s.tracks, t.2.key = k.track ∧ t.2.releasedSet.getLsbD j = true) →
                                codes[j]? = some 5)
                                ∧ ((∀ t ∈ s.tracks, t.2.key = k.track → t.2.releasedSet.getLsbD j = false) →
                                    codes[j]? = some 0)))

/-- R114: NEXT SETTLED makes its tests in order and answers with the lowest index, at or above the from-index, of a
SETTLED entry of the volume, or with FFFFh and NOT_FOUND; it changes nothing. -/
def Obligations.NextSettledFindsTheLowest : Prop :=
  ∀ (p : PortId) (volume : Byte) (fromIndex : Word) (s : State), s.ready p →
    let run := exec (.nextSettled p volume fromIndex) s
    (7 < volume.toNat → run = .next (s.answered p .range [0xFF, 0xFF]))
      ∧ ∀ v : Fin 8, volume.toNat = v.val →
          ((s.volumes[v]).isOpen = false → run = .next (s.answered p .refused [0xFF, 0xFF]))
            ∧ ((s.volumes[v]).isOpen = true → 4095 < fromIndex.toNat →
                run = .next (s.answered p .range [0xFF, 0xFF]))
            ∧ ((s.volumes[v]).isOpen = true → fromIndex.toNat ≤ 4095 → Table.wf 4096 s.entries = true →
                (∀ i e, (i, e) ∈ s.entries → fromIndex.toNat ≤ i → e.status = .settled →
                    e.key.track.volume = v →
                    (∀ j f, (j, f) ∈ s.entries → fromIndex.toNat ≤ j → f.status = .settled →
                      f.key.track.volume = v → i ≤ j) →
                    run = .next (s.answered p .ok [BitVec.ofNat 8 (i / 256), BitVec.ofNat 8 i]))
                  ∧ ((∀ i e, (i, e) ∈ s.entries → fromIndex.toNat ≤ i → e.key.track.volume = v →
                        e.status ≠ .settled) →
                      run = .next (s.answered p .notFound [0xFF, 0xFF])))

/-- R101, R110, R161 to R164: RELEASE tests its index in order, answering RANGE, NOT_FOUND or BUSY with FFh and changing
nothing. An entry that passes them becomes FREE, with OK and its status before the release; its sector's offset joins its
track's released set, whose counts and done flag follow, with TRACK_DONE and the volume's tracks-done count when the sum
first reaches the sectors per track; the volume's counts and the free entry count follow, and the table-low warning clears
at or above the threshold. Nothing else changes, and no other event is raised. -/
def Obligations.ReleaseTestsAndFrees : Prop :=
  ∀ (p : PortId) (index : Word) (s : State), s.ready p →
    (4095 < index.toNat → exec (.release p index) s = .next (s.answered p .range [0xFF]))
      ∧ (index.toNat ≤ 4095 → Table.get s.entries index.toNat = none →
          exec (.release p index) s = .next (s.answered p .notFound [0xFF]))
      ∧ ∀ e : Entry, index.toNat ≤ 4095 → Table.get s.entries index.toNat = some e →
          (e.busy = true → exec (.release p index) s = .next (s.answered p .busy [0xFF]))
            ∧ ∀ (j : Nat) (r : Track), e.busy = false → s.KeysDistinct → Table.get s.tracks j = some r →
                r.key = e.key.track →
                let v := e.key.track.volume
                let x := s.volumes[v]
                let was := e.status = .settled
                let r' : Track :=
                  { r with
                    releasedSet := r.releasedSet ||| (1#64 <<< (e.key.sector - x.firstSector))
                    released := r.released + 1
                    live := r.live - 1
                    settled := if was then r.settled - 1 else r.settled }
                let done := r.done = false ∧ x.sectorsPerTrack ≤ r'.settled + r'.released
                let t : State :=
                  { s with
                    entries := Table.drop s.entries index.toNat
                    tracks := Table.put s.tracks j { r' with done := if done then true else r.done }
                    volumes := s.volumes.set v
                      { x with
                        live := x.live - 1
                        settled := if was then x.settled - 1 else x.settled
                        released := x.released + 1
                        tracksDone := if done then x.tracksDone + 1 else x.tracksDone }
                    freeEntries := s.freeEntries + 1
                    lowWarning :=
                      if s.settings.lowThreshold ≤ s.freeEntries + 1 then false else s.lowWarning }
                exec (.release p index) s =
                  .next ((if done then t.raise .trackDone else t).answered p .ok
                    [(match e.status with | .opened => 1 | .provisional => 2 | .settled => 3 | .conflict => 4)])

/-! ## Resets -/

/-- R185, R186: RESET DEVICE and a falling RESET_N return every block to its reset values, leave candidate memory alone, and
abandon a transaction in progress; RESET DEVICE's own transaction shifts out 00h with the last result OK. While RESET_N
is low the state keeps those values: a part held in reset completes every step, and every step but the rise of RESET_N
leaves it held in reset, with candidate memory as it was; the rise leaves the values too. The reset values are those of the
rules, the framer's counts of R11 to R18 at 0 and its cell history empty among them; the framer's other reset values (the byte in
progress, the field mark, the deleted, finishing and from-GAP flags), which these clauses also fix, are the model's choice (log
entry 13). The queue of waiting commands and the free-value counts are the model's own. -/
def Obligations.ResetsReturnEveryBlock : Prop :=
  (∀ s : State, s.HeldInReset → s.pending.head? ≠ some .resetRelease →
    ∃ t, step s = .next t ∧ t.HeldInReset ∧ t.slots = s.slots)
    ∧ (∀ (p : PortId) (s : State), s.ready p →
    ∃ t,
      exec (.resetDevice p) s = .next t
        ∧ t = { State.reset with
                slots := s.slots, lanes := t.lanes, engine := t.engine, bay := t.bay, station := t.station
                resetLow := s.resetLow, pending := s.pending }
        ∧ (∀ i : Fin 4, t.lanes[i] = { Lane.reset with freeCount := (s.lanes[i]).freeCount })
        ∧ t.engine = { Engine.reset with freeCount := s.engine.freeCount }
        ∧ t.port p = ⟨.point 0 0 0, .ok, 0, 0, .response [] none⟩
        ∧ t.port p.other =
            ⟨.point 0 0 0, .ok, 0, 0, if (s.port p.other).phase = .closed then .closed else .abandoned⟩)
    ∧ (∀ s : State,
        ∃ t,
          exec .resetAssert s = .next t
            ∧ t = { State.reset with
                    slots := s.slots, lanes := t.lanes, engine := t.engine, bay := t.bay, station := t.station
                    resetLow := true, pending := s.pending }
            ∧ (∀ i : Fin 4, t.lanes[i] = { Lane.reset with freeCount := (s.lanes[i]).freeCount })
            ∧ t.engine = { Engine.reset with freeCount := s.engine.freeCount }
            ∧ t.HeldInReset
            ∧ (∀ p, t.port p =
                ⟨.point 0 0 0, .ok, 0, 0, if (s.port p).phase = .closed then .closed else .abandoned⟩)
            ∧ ∀ p, (t.port p).attention = false)
    ∧ (∀ s : State, exec .resetRelease s = .next { s with resetLow := false })
    ∧ State.reset.profiles = Vector.replicate 8
        ⟨.mfm, 2560, 200000, 0x4489, 0xA1, 3, 0xFE, 0xFB, 0xF8, 4, 0, 1, 1, 2, some 3, 0, 43, 0xFFFF, 3⟩
    ∧ State.reset.presets = Vector.replicate 16 ⟨2, 1, 0⟩
    ∧ State.reset.volumes = Vector.replicate 8 ⟨false, 0, 0, 0, 0, 0, 0, 0, 0, 0, 0, 0⟩
    ∧ State.reset.tracks = [] ∧ State.reset.entries = [] ∧ State.reset.freeEntries = 4096
    ∧ State.reset.lowWarning = false ∧ State.reset.arbiter = ⟨[0, 1, 2, 3], none, 0, false, 1⟩
    ∧ Engine.reset.phase = .idle ∧ Engine.reset.hand = none ∧ Engine.reset.bonus = 8 ∧ Engine.reset.margin = 6
    ∧ Engine.reset.depth = 3 ∧ Engine.reset.quorum = 3
    ∧ Lane.reset.state = .idle ∧ Lane.reset.active = none ∧ Lane.reset.chain = none ∧ Lane.reset.cause = none
    ∧ Lane.reset.revolutions = 0 ∧ Lane.reset.timing = ⟨0, false, [], 0, 0, 0, 0, false⟩
    ∧ Lane.reset.separator = ⟨0, 0, 0, 0, 0⟩
    ∧ Lane.reset.schedule = ⟨⟨1, 1, Vector.replicate 16 0⟩, ⟨1, 1, Vector.replicate 16 0⟩, false, 0, 0⟩
    ∧ Lane.reset.framer.mode = .stopped ∧ Lane.reset.framer.heldId = none ∧ Lane.reset.framer.matchCount = 0
    ∧ Lane.reset.framer.oneRun = 0 ∧ Lane.reset.framer.gapCount = 0 ∧ Lane.reset.framer.runViolations = 0
    ∧ Lane.reset.framer.historyLength = 0 ∧ Lane.reset.counts = Counts.zero
    ∧ Counts.zero = ⟨0, 0, 0, 0, 0, 0, 0, 0, 0, 0, 0, 0, 0, 0, 0⟩
    ∧ Lane.reset.outcome = none ∧ Lane.reset.queue = []

/-! ## Index edges -/

/-- R23, R26: an index edge that is a glitch is counted, saturating, and changes nothing else; a lane that does not watch
its index input takes no edge. Either way the time before the edge, in which no timer has run out, has passed at the
lane. -/
def Obligations.GlitchesAndUnwatchedEdgesChangeNothingElse : Prop :=
  ∀ (s : State) (i : Fin 4) (elapsed : Nat),
    (∀ d, s.watching i d → (s.lanes[i]).timing.edgeSeen = true →
      let n := (s.profileOf d.volume).revPeriod
      let l := s.laneAfter i n elapsed
      s.onTime i n elapsed → s.ticksAfter i n elapsed / 80 < n / 2 →
      exec (.indexEdge i elapsed) s =
        .next (s.setLane i
          { l with
            counts :=
              { l.counts with
                indexGlitches :=
                  if l.counts.indexGlitches < 65535 then l.counts.indexGlitches + 1 else l.counts.indexGlitches } }))
      ∧ ((s.lanes[i]).state = .idle ∨ (s.lanes[i]).state = .draining →
          s.onTime i (s.laneProfile s.lanes[i]).revPeriod elapsed ∨ (s.lanes[i]).active = none →
          exec (.indexEdge i elapsed) s =
            .next (s.setLane i (s.laneAfter i (s.laneProfile s.lanes[i]).revPeriod elapsed)))

/-- R25, R27, R28, R30 to R34: an accepted edge restarts the index timer; a period outside the first edge's becomes the
last measured one and, up to three halves of N, the newest of at most four in the history, while a longer one is counted
as a fault; Cauto is the nominal period times the average period over N, rounded half up and clamped within a sixteenth,
the clamp setting its flag; Ceff is the override or Cauto; and in ARMED the edge counts toward settle. -/
def Obligations.AcceptedEdgesSetTheCellClock : Prop :=
  ∀ (s : State) (i : Fin 4) (d : Descriptor) (elapsed : Nat), s.acceptsEdge i d elapsed →
    let l := s.lanes[i]
    let n := (s.profileOf d.volume).revPeriod
    let cnom := (s.profileOf d.volume).cellPeriod
    let period := s.ticksAfter i n elapsed / 80
    let good := l.timing.edgeSeen = true ∧ period ≤ 3 * n / 2
    let fault := l.timing.edgeSeen = true ∧ 3 * n / 2 < period
    let history := if good then (period :: l.timing.history).take 4 else l.timing.history
    let raw := ⌊((cnom * (history.sum / history.length) : ℕ) : ℚ) / (n : ℚ) + 1 / 2⌋₊
    let cauto := if history = [] then cnom else max (cnom - cnom / 16) (min (cnom + cnom / 16) raw)
    ∃ l',
      exec (.indexEdge i elapsed) s = .next (s.setLane i l')
        ∧ l'.timing =
            { timerTicks := 0
              edgeSeen := true
              history := history
              lastPeriod := if l.timing.edgeSeen = true then period else l.timing.lastPeriod
              settleCount := if l.state = .armed then l.timing.settleCount + 1 else l.timing.settleCount
              cauto := cauto
              ceff := d.cellOverride.getD cauto
              speedClamp := l.timing.speedClamp || decide (history ≠ [] ∧ cauto ≠ raw) }
        ∧ l'.counts =
            { l.counts with
              indexFaults :=
                if fault ∧ l.counts.indexFaults < 255 then l.counts.indexFaults + 1 else l.counts.indexFaults }
        ∧ l'.active = l.active ∧ l'.chain = l.chain ∧ l'.outcome = l.outcome ∧ l'.queue = l.queue

/-- R34, R37, R63, R64: in ARMED the edge that brings the settle count to settle plus one starts capture, with the framer
in HUNT and the first interval open at the edge; in CAPTURING an accepted edge closes a captured revolution, and the
R-th ends capture as COMPLETE with a finish request, which a framer inside a field takes to the field's end and any other
framer at once; in FINISHING the edge is not counted. That the run-violation count and the gap count are 0 at the start of
capture is the model's choice (log entry 26). -/
def Obligations.AcceptedEdgesStartAndEndCapture : Prop :=
  ∀ (s : State) (i : Fin 4) (d : Descriptor) (elapsed : Nat), s.acceptsEdge i d elapsed →
    let l := s.laneAfter i (s.profileOf d.volume).revPeriod elapsed
    ∃ l',
      exec (.indexEdge i elapsed) s = .next (s.setLane i l')
        ∧ (l.state = .armed → l.timing.settleCount + 1 < d.settle + 1 →
            l'.state = .armed ∧ l'.revolutions = l.revolutions ∧ l'.framer = l.framer ∧ l'.interval = l.interval
              ∧ l'.cause = l.cause)
        ∧ (l.state = .armed → d.settle + 1 ≤ l.timing.settleCount + 1 →
            l'.state = .capturing ∧ l'.revolutions = 0 ∧ l'.interval = some 0 ∧ l'.cause = l.cause
              ∧ l'.framer = { l.framer.hunting with cellHistory := 0, historyLength := 0, runViolations := 0 })
        ∧ (l.state = .capturing →
            l'.revolutions = l.revolutions + 1
              ∧ (l.revolutions + 1 < d.revolutions →
                  l'.state = .capturing ∧ l'.framer = l.framer ∧ l'.interval = l.interval ∧ l'.cause = l.cause)
              ∧ (d.revolutions ≤ l.revolutions + 1 →
                  l'.cause = (if l.cause = none then some .complete else l.cause)
                    ∧ (l.framer.inside →
                        l'.state = .finishing ∧ l'.framer = { l.framer with finishing := true }
                          ∧ l'.interval = l.interval)
                    ∧ (¬ l.framer.inside →
                        l'.state = .draining ∧ l'.framer.mode = .stopped ∧ l'.interval = none)))
        ∧ (l.state = .finishing →
            l'.state = .finishing ∧ l'.revolutions = l.revolutions ∧ l'.framer = l.framer
              ∧ l'.interval = l.interval ∧ l'.cause = l.cause)

/-- R35, R54 to R56: after counting the edge, the lane adopts a pending staged schedule, returning to slot 0, or advances
the slot if the edge closes a captured revolution of a pass that uses the schedule; then it decides the preset in force
and latches its parameters; then Ccur is set to Ceff by the edge that starts capture, kept by an edge that leaves the
lane in ARMED, and otherwise clamped into the band of the new Ceff and tolerance. -/
def Obligations.AcceptedEdgesStageScheduleAndPreset : Prop :=
  ∀ (s : State) (i : Fin 4) (d : Descriptor) (elapsed : Nat), s.acceptsEdge i d elapsed →
    let l := s.lanes[i]
    let x := l.schedule
    let staged : ScheduleState :=
      if x.pending then
        { active := x.staged, staged := x.staged, pending := false, slotPosition := 0, revInSlot := 0 }
      else if l.state = .capturing ∧ d.preset = none then
        (if x.revInSlot + 1 = x.active.frameLength then
          { x with revInSlot := 0, slotPosition := (x.slotPosition + 1) % x.active.slotCount }
        else { x with revInSlot := x.revInSlot + 1 })
      else x
    let n : Fin 16 := d.preset.getD (staged.active.slots.toList.getD staged.slotPosition 0)
    ∃ l',
      exec (.indexEdge i elapsed) s = .next (s.setLane i l')
        ∧ l'.schedule = staged
        ∧ l'.separator.presetInForce = n ∧ l'.separator.gain = (s.presets[n]).gain
        ∧ l'.separator.tolerance = (s.presets[n]).tolerance ∧ l'.separator.bias = (s.presets[n]).bias
        ∧ l'.separator.ccur =
            let half := l'.timing.ceff * ((s.presets[n]).tolerance + 1) / 32
            if l.state = .armed then (if l'.state = .armed then l.separator.ccur else l'.timing.ceff)
            else max (l'.timing.ceff - half) (min (l'.timing.ceff + half) l.separator.ccur)

/-- R29, R63, R65, R66: when the index timer of a lane in ARMED or CAPTURING stands at 2N, the ending cause becomes
NO_INDEX if none is recorded; in ARMED the lane goes straight to DRAINING, and in CAPTURING the framer takes a finish
request. That in every other state, and short of 2N, the event leaves all but the time that has passed is the model's
choice: an event whose condition does not hold does not take place (log entries 1 and 3); and so is what the stopped framer's
own counts hold (log entry 26). -/
def Obligations.NoIndexTimeoutEndsCapture : Prop :=
  ∀ (s : State) (i : Fin 4) (d : Descriptor) (elapsed : Nat), (s.lanes[i]).active = some d →
    s.onTime i (s.profileOf d.volume).revPeriod elapsed →
    let n := (s.profileOf d.volume).revPeriod
    let l := s.laneAfter i n elapsed
    let cause := if l.cause = none then some PassOutcome.noIndex else l.cause
    (2 * n ≤ l.timing.timerTicks / 80 →
      (l.state = .armed →
        exec (.noIndexTimeout i elapsed) s = .next (s.setLane i { l with cause := cause, state := .draining }))
        ∧ (l.state = .capturing → l.framer.inside →
            exec (.noIndexTimeout i elapsed) s =
              .next (s.setLane i
                { l with cause := cause, state := .finishing, framer := { l.framer with finishing := true } }))
        ∧ (l.state = .capturing → l.framer.mode = .hunt ∨ l.framer.mode = .gap →
            exec (.noIndexTimeout i elapsed) s =
              .next (s.setLane i
                { l with cause := cause, state := .draining, framer := l.framer.halted, interval := none })))
      ∧ (l.timing.timerTicks / 80 < 2 * n ∨ (l.state ≠ .armed ∧ l.state ≠ .capturing) →
          exec (.noIndexTimeout i elapsed) s = .next (s.setLane i l))

/-! ## Intervals -/

/-- R40 to R44: the raw cell count is the floor of the biased quotient; the cell count is it brought into the allowed set;
the confidence falls from 15 with the deviation and is 0 outside the set or half a cell off; Ccur moves by the deviation
per cell over two to the gain plus one, truncated toward zero, and is then clamped into the tolerance band. -/
def Obligations.IntervalArithmeticIsExact : Prop :=
  ∀ (e : Encoding) (x : Separator) (ceff i : Nat), 0 < x.ccur → x.tolerance ≤ 3 →
    let c : ℚ := x.ccur
    let y := x.compute e ceff i
    let d : ℤ := 16 * i - y.k * x.ccur
    let inside := (e.smallest : ℤ) ≤ y.kraw ∧ y.kraw ≤ e.largest
    let step : ℚ := |d| / (y.k * 2 ^ (x.gain + 1))
    let correction : ℤ := if x.gain = 0 then 0 else if 0 ≤ d then ⌊step⌋ else -⌊step⌋
    let half : ℤ := ⌊(ceff : ℚ) * (x.tolerance + 1) / 32⌋
    y.kraw = ⌊((16 * i + ⌊c / 2⌋ - ⌊(x.bias * x.ccur : ℚ) / 16⌋ : ℤ) : ℚ) / c⌋
      ∧ (y.k : ℤ) = max (e.smallest : ℤ) (min (e.largest : ℤ) y.kraw)
      ∧ (inside → 2 * |d| < x.ccur → (y.confidence : ℤ) = ⌊15 * (c - 2 * |(d : ℚ)|) / c⌋)
      ∧ (¬ inside ∨ x.ccur ≤ 2 * |d| → y.confidence = 0)
      ∧ y.confidence ≤ 15
      ∧ (y.ccur : ℤ) = max (ceff - half) (min (ceff + half) (x.ccur + correction))

/-- R29, R38, R39, R46, R66: a flux transition closes the open interval, and so does the timeout of one that has been open for
8192 ticks; unless it ends the field as a sync loss, the framer takes its cells in order, k − 1 zero cells and a one cell of
one confidence, Ccur takes the computed value, and the next interval opens unless the framer has become STOPPED. The lane's
timing, schedule and descriptors stand, and its queue only grows. After a seek mismatch has ended capture, the number of
cells taken before the finish request reaches the framer is a free value (log entry 6), which each cell counts down: a
framer still hunting then stops, and a mark found meanwhile has its field finished; so it goes from the very cell that
completes the mismatched pair. Without an open interval a transition is
not measured. An event at a lane that comes after one of its timers has run out finds what that timer's timeout has done at
its own point, so that an interval never passes 8192 ticks (which of two timers at one tick comes first is log entry 3's
choice, and what a stopped framer's own counts hold is log entry 26's). -/
def Obligations.FluxClosesTheOpenInterval : Prop :=
  ∀ (s : State) (i : Fin 4) (elapsed : Nat) (event : Instr),
    (∀ (d : Descriptor) (k : Nat), (s.lanes[i]).active = some d → (s.lanes[i]).interval = some k →
      let env := s.laneEnv i d
      let l := s.laneAfter i env.profile.revPeriod elapsed
      let y := l.separator.compute env.profile.encoding l.timing.ceff (k + elapsed)
      s.onTime i env.profile.revPeriod elapsed →
      event = .fluxTransition i elapsed ∨ (event = .intervalTimeout i elapsed ∧ k + elapsed = 8192) →
      ¬ l.framer.loses env.profile.encoding y.kraw →
      let judged : Framer :=
        { l.framer with
          runViolations :=
            if ¬ l.framer.inside then l.framer.runViolations
            else if (env.profile.encoding.smallest : ℤ) ≤ y.kraw ∧ y.kraw ≤ env.profile.encoding.largest then 0
            else l.framer.runViolations + 1 }
      let cells := List.replicate (y.k - 1) (RecordedCell.mk false y.confidence) ++ [⟨true, y.confidence⟩]
      let afterCells (m : Nat) : Lane :=
        (cells.take m).foldl (fun m c => m.takeCell env d c)
          { l with interval := some 0, framer := judged, separator := { l.separator with ccur := y.ccur } }
      let taken := afterCells cells.length
      ∃ l',
        exec event s = .next (s.setLane i l')
          ∧ l'.separator = { l.separator with ccur := y.ccur }
          ∧ l'.interval = (if l'.framer.mode = .stopped then none else some 0)
          ∧ l'.timing = l.timing ∧ l'.schedule = l.schedule ∧ l'.active = l.active ∧ l'.chain = l.chain
          ∧ l'.outcome = l.outcome ∧ l'.revolutions = l.revolutions ∧ l.queue <+: l'.queue
          ∧ (l.request = none → l.state ≠ .capturing ∨ taken.state = .capturing →
              l' =
                if taken.framer.mode = .stopped then
                  { taken with
                    interval := none, state := if taken.state = .finishing then .draining else taken.state }
                else taken)
          ∧ (∀ m, l.request = none → m < cells.length → (afterCells m).state = .capturing →
              (afterCells (m + 1)).state = .finishing →
              let arrives := m + 1 + Config.finishDelay i.val l.freeCount
              let reached := afterCells (min arrives cells.length)
              taken.freeCount = l.freeCount + 1
                ∧ (reached.framer.mode = .hunt → cells.length < arrives →
                    l' = { taken with request := some (arrives - cells.length) })
                ∧ (reached.framer.mode = .hunt → arrives ≤ cells.length →
                    l' =
                      { reached with
                        request := none, framer := reached.framer.halted, interval := none, state := .draining })
                ∧ (reached.framer.mode = .mark →
                    l' = { taken with request := none, framer := { taken.framer with finishing := true } })
                ∧ (reached.framer.mode = .stopped →
                    l' =
                      { taken with
                        request := if arrives ≤ cells.length then none else some (arrives - cells.length)
                        interval := none, state := .draining }))
          ∧ ∀ n, l.request = some (n + 1) → l.state = .finishing → l.framer.mode = .hunt →
              let reached := afterCells (min (n + 1) cells.length)
              (reached.framer.mode = .hunt → cells.length ≤ n →
                l' = { taken with request := some (n + 1 - cells.length) })
                ∧ (reached.framer.mode = .hunt → n < cells.length →
                    l' =
                      { reached with
                        request := none, framer := reached.framer.halted, interval := none, state := .draining })
                ∧ (reached.framer.mode ≠ .hunt →
                    l' = { taken with request := none, framer := { taken.framer with finishing := true } }))
      ∧ ((s.lanes[i]).active = none
          ∨ ((s.lanes[i]).interval = none ∧ s.onTime i (s.laneProfile s.lanes[i]).revPeriod elapsed) →
          exec (.fluxTransition i elapsed) s =
            .next (s.setLane i (s.laneAfter i (s.laneProfile s.lanes[i]).revPeriod elapsed)))
      ∧ ∀ (d : Descriptor) (late : Nat → Instr) (t : Nat), (s.lanes[i]).active = some d → t < elapsed →
          late = Instr.fluxTransition i ∨ late = Instr.indexEdge i ∨ late = Instr.intervalTimeout i
            ∨ late = Instr.noIndexTimeout i →
          (s.intervalEnds i (s.profileOf d.volume).revPeriod t →
            ∃ s1, exec (.intervalTimeout i t) s = .next s1 ∧ exec (late elapsed) s = exec (late (elapsed - t)) s1)
            ∧ (s.indexExpires i (s.profileOf d.volume).revPeriod t →
                ∃ s1, exec (.noIndexTimeout i t) s = .next s1 ∧ exec (late elapsed) s = exec (late (elapsed - t)) s1)

/-- R18, R19, R38, R45: inside a field, a dropout or a third run violation in a row ends the field as a sync loss: it is
counted, its cells are discarded and the held ID is dropped uncounted, a run violation that causes it having raised the
run-violation count; the framer returns to HUNT, with Ccur re-anchored
to Ceff, or, in FINISHING or under a finish request, becomes STOPPED without re-anchoring. An interval still open at 8192
ticks is closed there, and its raw cell count is at least 17 for every cell period and bias the separator can hold, so that
it is a dropout. That the timeout of a shorter interval leaves all but the time that has passed, and what the framer's gap
count, and once it is STOPPED its other counts, hold, are the model's choices (log entries 1, 3 and 26). -/
def Obligations.SyncLossEndsTheField : Prop :=
  ∀ (s : State) (i : Fin 4) (elapsed : Nat) (d : Descriptor) (k : Nat),
    (s.lanes[i]).active = some d → (s.lanes[i]).interval = some k →
    let env := s.laneEnv i d
    let l := s.laneAfter i env.profile.revPeriod elapsed
    let y := l.separator.compute env.profile.encoding l.timing.ceff (k + elapsed)
    let counts :=
      { l.counts with
        syncLosses := if l.counts.syncLosses < 65535 then l.counts.syncLosses + 1 else l.counts.syncLosses }
    let judged : Framer :=
      { l.framer with
        runViolations :=
          if (2 * env.profile.encoding.largest : Nat) < y.kraw then l.framer.runViolations
          else l.framer.runViolations + 1 }
    s.onTime i env.profile.revPeriod elapsed →
    (∀ event : Instr,
      event = .fluxTransition i elapsed ∨ (event = .intervalTimeout i elapsed ∧ k + elapsed = 8192) →
      l.framer.loses env.profile.encoding y.kraw →
      (l.framer.finishing = false → l.state ≠ .finishing →
        exec event s =
          .next (s.setLane i
            { l with
              framer := judged.hunting, counts := counts, interval := some 0
              separator := { l.separator with ccur := l.timing.ceff } }))
        ∧ (l.framer.finishing = true ∨ l.state = .finishing →
            exec event s =
              .next (s.setLane i
                { l with
                  framer := judged.halted, counts := counts, interval := none
                  state := if l.state = .finishing then .draining else l.state
                  separator := { l.separator with ccur := y.ccur } })))
      ∧ (k + elapsed = 8192 → 525 ≤ l.separator.ccur → l.separator.ccur ≤ 7650 → -4 ≤ l.separator.bias →
          l.separator.bias ≤ 4 →
          17 ≤ y.kraw ∧ (l.framer.inside → l.framer.loses env.profile.encoding y.kraw))
      ∧ (k + elapsed < 8192 → exec (.intervalTimeout i elapsed) s = .next (s.setLane i l))

/-! ## Framing -/

/-- R7 to R9, R47: under FM and MFM a byte's value is the second cells of its eight pairs, first pair highest; under GCR it
is two groups of the group table, a group outside it standing for 0, counting as a code violation and forcing confidence
0; otherwise a byte's confidence is the smallest of its cells'. -/
def Obligations.BytesDecodeFromTheirCells : Prop :=
  let groups : List (List Nat) :=
    [[1, 1, 0, 0, 1], [1, 1, 0, 1, 1], [1, 0, 0, 1, 0], [1, 0, 0, 1, 1], [1, 1, 1, 0, 1], [1, 0, 1, 0, 1],
      [1, 0, 1, 1, 0], [1, 0, 1, 1, 1], [1, 1, 0, 1, 0], [0, 1, 0, 0, 1], [0, 1, 0, 1, 0], [0, 1, 0, 1, 1],
      [1, 1, 1, 1, 0], [0, 1, 1, 0, 1], [0, 1, 1, 1, 0], [0, 1, 1, 1, 1]]
  let smallest (q : Nat) (cells : List RecordedCell) : Prop :=
    q ≤ 15 ∧ (∀ c ∈ cells, q ≤ c.confidence) ∧ (q = 15 ∨ ∃ c ∈ cells, c.confidence = q)
  ∀ cells : List RecordedCell,
    (cells.length = 16 → ∀ e : Encoding, e ≠ .gcr →
      let b := decodeByte e cells
      (∀ j < 8, b.value.getLsbD (7 - j) = (cells[2 * j + 1]?.map (·.one)).getD false)
        ∧ b.violations = 0 ∧ smallest b.confidence cells)
      ∧ (cells.length = 10 →
          let b := decodeByte .gcr cells
          let group (k : Nat) : List Nat := ((cells.drop (5 * k)).take 5).map fun c => if c.one then 1 else 0
          (∀ k < 2,
            (∀ n, groups[n]? = some (group k) → b.value.toNat / (if k = 0 then 16 else 1) % 16 = n)
              ∧ (group k ∉ groups → b.value.toNat / (if k = 0 then 16 else 1) % 16 = 0))
            ∧ b.violations = (if group 0 ∈ groups then 0 else 1) + (if group 1 ∈ groups then 0 else 1)
            ∧ (b.violations = 0 → smallest b.confidence cells) ∧ (b.violations ≠ 0 → b.confidence = 0))

/-- R10 to R12, R15: in HUNT, and in GAP within the gap limit, each cell joins the history of the last 16. Under FM and MFM the
history, once it holds 16 cells, is compared with the mark cell pattern at every cell while the match count is 0 and only at
the 16th cell after the last match otherwise: a match raises the count, which at the mark repeat count brings the framer to
MARK, and a mismatch returns it to 0. Under GCR one cells are counted, and a zero cell after 10 or more brings the framer to
MARK as the first cell of the field mark byte, while one after fewer returns the run count to 0. Nothing is counted or
reported. So from a fresh HUNT the pattern repeated mark repeat count times, or ten ones and a zero, lead to MARK. What the
gap count holds in HUNT is the model's choice (log entry 26). -/
def Obligations.MarksAreFoundInHunt : Prop :=
  (∀ (p : Profile) (f : Framer) (n : Counts) (c : RecordedCell),
    f.mode = .hunt ∨ (f.mode = .gap ∧ f.gapCount + 1 ≤ p.gapLimit * (if p.encoding = .gcr then 10 else 16)) →
    let r := f.takeCell p c n
    r.counts = n ∧ r.pair = none
      ∧ ∃ history : Word,
          history.getLsbD 0 = c.one ∧ (∀ k < 15, history.getLsbD (k + 1) = f.cellHistory.getLsbD k)
            ∧ let g : Framer :=
                { f with
                  cellHistory := history, historyLength := min 16 (f.historyLength + 1)
                  gapCount := if f.mode = .gap then f.gapCount + 1 else f.gapCount }
              let mark (cells : List RecordedCell) : Framer :=
                { g with
                  mode := .mark, markFromGap := decide (f.mode = .gap), runViolations := 0, cells := cells
                  bytes := [], confidences := [] }
              let compares := f.matchCount = 0 ∨ 15 ≤ f.sinceMatch
              let seen := 15 ≤ f.historyLength ∧ history = p.markPattern
              (p.encoding ≠ .gcr →
                (compares → seen → f.matchCount + 1 < p.markRepeat →
                  r.framer = { g with matchCount := f.matchCount + 1, sinceMatch := 0 })
                  ∧ (compares → seen → p.markRepeat ≤ f.matchCount + 1 →
                      r.framer = { mark [] with matchCount := f.matchCount + 1, sinceMatch := 0 })
                  ∧ (compares → ¬ seen → r.framer = { g with matchCount := 0, sinceMatch := r.framer.sinceMatch })
                  ∧ (¬ compares → r.framer = { g with sinceMatch := f.sinceMatch + 1 }))
                ∧ (p.encoding = .gcr →
                    (c.one = true → r.framer = { g with oneRun := f.oneRun + 1 })
                      ∧ (c.one = false → 10 ≤ f.oneRun → r.framer = mark [c])
                      ∧ (c.one = false → f.oneRun < 10 → r.framer = { g with oneRun := 0 })))
    ∧ ∀ (p : Profile) (f : Framer) (n : Counts) (cells : List RecordedCell), f.mode = .hunt →
        let after := Framer.takeAll p cells f n
        (p.encoding ≠ .gcr → f.matchCount = 0 → f.historyLength = 0 → 1 ≤ p.markRepeat →
          cells.length = 16 * p.markRepeat →
          (∀ j < cells.length, (cells[j]?.map (·.one)) = some (p.markPattern.getLsbD (15 - j % 16))) →
          after.1.mode = .mark ∧ after.1.markFromGap = false ∧ after.1.cells = [] ∧ after.1.runViolations = 0
            ∧ after.2.1 = n ∧ after.2.2 = [])
          ∧ ∀ (ones : List RecordedCell) (zero : RecordedCell), p.encoding = .gcr → f.oneRun = 0 →
              (∀ c ∈ ones, c.one = true) → zero.one = false → cells = ones ++ [zero] →
              after.2.1 = n ∧ after.2.2 = []
                ∧ (10 ≤ ones.length →
                    after.1.mode = .mark ∧ after.1.markFromGap = false ∧ after.1.cells = [zero]
                      ∧ after.1.runViolations = 0)
                ∧ (ones.length < 10 → after.1.mode = .hunt ∧ after.1.oneRun = 0)

/-- R13, R16, R19: a complete field mark byte is compared with the ID, data and deleted-data marks in that order. The ID mark
begins an ID field and makes an ID held an orphan; a data mark after an ID begins its data field; any other byte is a
stray mark, after which the framer returns to HUNT, or to GAP with the ID and its gap count kept unless the count has
passed the gap limit, which makes the ID an orphan; under a finish request a stray mark stops the framer. That the byte's
code violations are counted at its last cell, and that a byte whose violating group decodes as nibble 0 may be a mark of
that nibble, are the model's choices (log entries 20 and 23). -/
def Obligations.FieldMarkBytesAreClassified : Prop :=
  ∀ (p : Profile) (f : Framer) (n : Counts) (c : RecordedCell),
    f.mode = .mark → f.cells.length + 1 = (if p.encoding = .gcr then 10 else 16) →
    let b := decodeByte p.encoding (c :: f.cells).reverse
    let gap := if f.markFromGap then f.gapCount + 1 else f.gapCount
    let late := f.markFromGap = true ∧ p.gapLimit * (if p.encoding = .gcr then 10 else 16) < gap
    let orphans := if n.orphanIds < 65535 then n.orphanIds + 1 else n.orphanIds
    let strays := if n.strayMarks < 65535 then n.strayMarks + 1 else n.strayMarks
    let seen : Counts := { n with codeViolations := satAdd 65535 n.codeViolations b.violations }
    let r := f.takeCell p c n
    r.pair = none
      ∧ (b.value = p.idMark →
          r.framer.mode = .id ∧ r.framer.heldId = none ∧ r.framer.fieldMark = b.value ∧ r.framer.cells = []
            ∧ r.framer.bytes = [] ∧ r.framer.finishing = f.finishing
            ∧ r.counts = { seen with orphanIds := if f.markFromGap then orphans else n.orphanIds })
      ∧ (b.value ≠ p.idMark → f.markFromGap = true → b.value = p.dataMark ∨ b.value = p.deletedMark →
          r.framer.mode = .data ∧ r.framer.heldId = f.heldId ∧ r.framer.fieldMark = b.value
            ∧ r.framer.deletedField = decide (b.value ≠ p.dataMark) ∧ r.framer.cells = [] ∧ r.framer.bytes = []
            ∧ r.framer.finishing = f.finishing ∧ r.counts = seen)
      ∧ (b.value ≠ p.idMark → (f.markFromGap = true → b.value ≠ p.dataMark ∧ b.value ≠ p.deletedMark) →
          r.counts = { seen with strayMarks := strays, orphanIds := if late then orphans else n.orphanIds }
            ∧ (f.finishing = true → r.framer.mode = .stopped ∧ r.framer.heldId = none)
            ∧ (f.finishing = false →
                (f.markFromGap = true ∧ ¬ late →
                  r.framer.mode = .gap ∧ r.framer.heldId = f.heldId ∧ r.framer.gapCount = gap)
                  ∧ (f.markFromGap = false ∨ late → r.framer.mode = .hunt ∧ r.framer.heldId = none)
                  ∧ r.framer.matchCount = 0 ∧ r.framer.oneRun = 0))

/-- R3, R7, R8, R11, R14, R15, R17, R19 to R21, R47: inside a field every cell joins the history, and one that does not complete a
byte joins the cells of its byte and, in a MARK entered from GAP, the gap count; a byte completed short of the second CRC byte
of an ID or data field joins the field's bytes with its confidence, its violations are counted, and state and ID stay. The
last cell of an ID field's second CRC byte checks the ID, extracts it by the profile's
positions, decides the data length and brings the framer to GAP, or, under a finish request, to STOPPED; the last cell of a
data field's second CRC byte reports the completed field pair and brings the framer to HUNT, or to STOPPED. That the byte's
code violations are counted at its last cell, and that GAP is first entered with the run count of R12 at 0, are the model's
choices (log entries 20 and 25). -/
def Obligations.FieldsEndAtTheirSecondCrcByte : Prop :=
  ∀ (p : Profile) (f : Framer) (n : Counts) (c : RecordedCell),
    let size := if p.encoding = .gcr then 10 else 16
    let b := decodeByte p.encoding (c :: f.cells).reverse
    let bytes := (b.value :: f.bytes).reverse
    let confidences := (b.confidence :: f.confidences).reverse
    let marks := if p.encoding = .gcr then 0 else p.crcMarkCount
    let good := crcRun p.crcPreset (List.replicate marks p.markValue ++ f.fieldMark :: bytes) = 0
    let seen : Counts := { n with codeViolations := satAdd 65535 n.codeViolations b.violations }
    let r := f.takeCell p c n
    let g : Framer :=
      { f with cellHistory := r.framer.cellHistory, historyLength := min 16 (f.historyLength + 1), cells := [] }
    (f.inside →
      r.framer.historyLength = min 16 (f.historyLength + 1) ∧ r.framer.cellHistory.getLsbD 0 = c.one
        ∧ ∀ k < 15, r.framer.cellHistory.getLsbD (k + 1) = f.cellHistory.getLsbD k)
      ∧ (f.inside → f.cells.length + 1 < size →
          r.pair = none ∧ r.counts = n
            ∧ r.framer =
                { g with
                  cells := c :: f.cells
                  gapCount := if f.mode = .mark ∧ f.markFromGap = true then f.gapCount + 1 else f.gapCount })
      ∧ (f.cells.length + 1 = size →
          (f.mode = .id ∧ f.bytes.length + 1 < p.idLength + 2)
            ∨ (f.mode = .data ∧ ∃ held, f.heldId = some held ∧ f.bytes.length + 1 < held.dataLength + 2) →
          r.pair = none ∧ r.counts = seen
            ∧ r.framer = { g with bytes := b.value :: f.bytes, confidences := b.confidence :: f.confidences })
      ∧ (f.cells.length + 1 = size → f.mode = .id → f.bytes.length + 1 = p.idLength + 2 →
          let byteAt (k : Nat) : Nat := if k < p.idLength then (bytes.getD k 0).toNat else 0
          let sizeCode := match p.sizePos with | some k => byteAt k | none => 0
          r.pair = none
            ∧ r.counts =
                { seen with
                  idCrcBad := if good then n.idCrcBad else if n.idCrcBad < 65535 then n.idCrcBad + 1 else n.idCrcBad }
            ∧ (f.finishing = true → r.framer.mode = .stopped ∧ r.framer.heldId = none)
            ∧ (f.finishing = false →
                r.framer.mode = .gap ∧ r.framer.gapCount = 0 ∧ r.framer.matchCount = 0 ∧ r.framer.oneRun = 0
                  ∧ r.framer.heldId =
                      some
                        { cylinder :=
                            if p.cylWidth = 2 then 256 * byteAt p.cylPos + byteAt (p.cylPos + 1) else byteAt p.cylPos
                          head := byteAt p.headPos
                          sector := byteAt p.sectorPos
                          sizeCode := sizeCode
                          illegalSize := decide (p.lengthCode = 0 ∧ 4 ≤ sizeCode)
                          crcGood := decide good
                          dataLength :=
                            if p.lengthCode = 0 then (if sizeCode < 4 then 128 * 2 ^ sizeCode else 128)
                            else 64 * 2 ^ p.lengthCode
                          bytes := bytes.take p.idLength
                          confidences := confidences.take p.idLength }))
      ∧ ∀ held, f.cells.length + 1 = size → f.mode = .data → f.heldId = some held →
          f.bytes.length + 1 = held.dataLength + 2 →
          r.pair =
              some
                { id := held, deleted := f.deletedField, crcGood := decide good, bytes := bytes
                  confidences := confidences }
            ∧ r.counts = seen ∧ r.framer.heldId = none
            ∧ r.framer.mode = (if f.finishing then .stopped else .hunt)

/-- R15, R16, R19: a cell taken in GAP is counted, and one that takes the count past the gap limit makes the ID held an
orphan and returns the framer to HUNT (that it does so at a cell which also completes a mark is log entry 8's deduction, the
model's choice); a finish request stops the framer at once outside a field and is kept inside
one; a stop request stops it in any state; both drop a held ID uncounted. What the stopped framer's own counts hold is the
model's choice (log entry 26). -/
def Obligations.GapLimitAndRequestsEndTheSearch : Prop :=
  ∀ (p : Profile) (f : Framer) (n : Counts) (c : RecordedCell),
    (f.mode = .gap →
      let limit := p.gapLimit * (if p.encoding = .gcr then 10 else 16)
      let r := f.takeCell p c n
      r.pair = none
        ∧ (limit < f.gapCount + 1 →
            r.framer.mode = .hunt ∧ r.framer.heldId = none ∧ r.framer.matchCount = 0 ∧ r.framer.oneRun = 0
              ∧ r.counts =
                  { n with orphanIds := if n.orphanIds < 65535 then n.orphanIds + 1 else n.orphanIds })
        ∧ (f.gapCount + 1 ≤ limit →
            r.framer.heldId = f.heldId ∧ r.framer.gapCount = f.gapCount + 1 ∧ r.counts = n
              ∧ (r.framer.mode = .gap ∨ (r.framer.mode = .mark ∧ r.framer.markFromGap = true))))
      ∧ (f.mode = .stopped → f.finish = f ∧ f.takeCell p c n = ⟨f, n, none⟩)
      ∧ (f.mode = .hunt ∨ f.mode = .gap → f.finish = f.halted)
      ∧ (f.inside → f.finish = { f with finishing := true })
      ∧ f.stop = f.halted

/-! ## Anchoring and the queue -/

/-- R17, R62, R73 to R77, R83, R84: a cell that a lane takes is the framer's, whose new state and counts the lane keeps, and
a field pair it completes is anchored at once, by the lane's number, the profile and the geometry of its descriptor's
volume, and the trust floor and the seek limit as they stand. A completed field pair is anchored by its ID. With a good ID
CRC a wrong cylinder or head is a seek mismatch, which in CAPTURING ends capture at the limit, its finish request on its way
for a number of cells that is a free value and the model's own state (log entry 6), and a sector outside the geometry or an
illegal size code is out of geometry; with a bad one, the pair is unanchored unless the ID fits and every ID byte's
confidence meets the trust floor. A kept pair is counted and joins the queue as its tail, or, where 6 attempts stand there,
is an overrun. -/
def Obligations.FieldPairsAreAnchoredAndQueued : Prop :=
  (∀ (s : State) (i : Fin 4) (d : Descriptor),
    let v := s.volumes[d.volume]
    s.laneEnv i d = ⟨i, s.profiles[v.profile], v, s.settings.trustFloor, s.settings.seekLimit⟩)
  ∧ (∀ (env : LaneEnv) (d : Descriptor) (c : RecordedCell) (l : Lane),
    let r := l.framer.takeCell env.profile c l.counts
    let l' := { l with framer := r.framer, counts := r.counts }
    (r.pair = none → l.takeCell env d c = l') ∧ ∀ x, r.pair = some x → l.takeCell env d c = l'.anchor env d x)
  ∧ ∀ (env : LaneEnv) (d : Descriptor) (x : FieldPair) (l : Lane),
    let onTrack := x.id.cylinder = d.cylinder ∧ x.id.head = d.head
    let fits :=
      env.volume.firstSector ≤ x.id.sector ∧ x.id.sector < env.volume.firstSector + env.volume.sectorsPerTrack
        ∧ x.id.illegalSize = false
    let trusted := ∀ q ∈ x.id.confidences, env.trustFloor ≤ q
    let up (top k : Nat) := if k < top then k + 1 else k
    let attempt : Attempt :=
      { lane := env.number, key := ⟨⟨d.volume, x.id.cylinder, x.id.head⟩, x.id.sector⟩
        dataLength := x.id.dataLength, deleted := x.deleted, crcGood := x.crcGood, bytes := x.bytes
        confidences := x.confidences }
    let kept : Counts :=
      { l.counts with
        attempts := up 65535 l.counts.attempts
        dataCrcGood := if x.crcGood then up 65535 l.counts.dataCrcGood else l.counts.dataCrcGood }
    (x.id.crcGood = true → ¬ onTrack →
      let m := up 255 l.counts.seekMismatches
      l.anchor env d x =
        if l.state = .capturing ∧ env.seekLimit ≤ m then
          { l with
            counts := { l.counts with seekMismatches := m }, state := .finishing
            cause := if l.cause = none then some .seekMismatch else l.cause
            request := some (Config.finishDelay env.number.val l.freeCount), freeCount := l.freeCount + 1 }
        else { l with counts := { l.counts with seekMismatches := m } })
      ∧ (x.id.crcGood = true → onTrack → ¬ fits →
          l.anchor env d x =
            { l with counts := { l.counts with outOfGeometry := up 65535 l.counts.outOfGeometry } })
      ∧ (x.id.crcGood = false → ¬ (onTrack ∧ fits ∧ trusted) →
          l.anchor env d x = { l with counts := { l.counts with unanchored := up 65535 l.counts.unanchored } })
      ∧ (onTrack → fits → x.id.crcGood = true ∨ trusted →
          (l.queue.length < 6 → l.anchor env d x = { l with counts := kept, queue := l.queue ++ [attempt] })
            ∧ (6 ≤ l.queue.length →
                l.anchor env d x = { l with counts := { kept with overruns := up 65535 kept.overruns } }))

/-- R68, R69: DRAINING ends when the lane's queue is empty and the engine holds no attempt of the lane: the ending cause
becomes the outcome, PASS_DONE is raised in both ports' flag sets and LANE_FAULT with it for NO_INDEX and SEEK_MISMATCH, and
the lane becomes IDLE or, with a chained descriptor, takes that descriptor up at once. That the event before DRAINING has
ended leaves the state as it is, and that the IDLE lane keeps the old ending cause, are the model's choices (log entries 1
and 21). -/
def Obligations.PassCompletionReportsAndPromotes : Prop :=
  ∀ (s : State) (i : Fin 4),
    let l := s.lanes[i]
    let drains := l.state = .draining ∧ l.queue = [] ∧ ∀ h, s.engine.hand = some h → h.attempt.lane ≠ i
    (¬ drains → exec (.passCompletion i) s = .next s)
      ∧ (drains →
          let s1 := s.raise (.passDone i)
          let s2 :=
            if l.cause = some .noIndex ∨ l.cause = some .seekMismatch then s1.raise .laneFault else s1
          let ended : Lane := { l with outcome := l.cause, active := none, state := .idle, chain := none }
          (l.chain = none → exec (.passCompletion i) s = .next (s2.setLane i ended))
            ∧ ∀ d, l.chain = some d →
                exec (.passCompletion i) s = .next (s2.setLane i (s.activatedLane ended d)))

/-! ## Grants -/

/-- R83, R85, R87 to R92: while the engine is busy, or with every queue empty, there is no grant (that the event then leaves
the state as it is, is the model's choice, log entry 1); otherwise an idle engine with no burst in progress always has one to make, and a grant takes the head of the burst owner's queue or of the
arbitration's winner, fixed mode preferring the lowest lane and rotating mode the rotation order, latches mode and burst
at an arbitration, counts the grant, and ends the burst at the latched burst or an empty queue, the owner of a rotating
burst moving to the end of the order, while the latched mode and burst keep their values by the model's choice (log entry
22). The engine then holds that attempt or, after a discard, none. -/
def Obligations.GrantsFollowTheArbitersOrder : Prop :=
  ∀ s : State,
    (s.engine.phase ≠ .idle ∨ (∀ i : Fin 4, (s.lanes[i]).queue = []) → exec .grant s = .next s)
      ∧ (s.engine.phase = .idle → s.arbiter.owner = none → s.OrderComplete →
          (∃ i : Fin 4, (s.lanes[i]).queue ≠ []) → ∃ l a rest, s.Grants l a rest)
      ∧ ∀ l a rest, s.Grants l a rest →
          ∃ t,
            exec .grant s = .next t ∧ t.lanes = (s.granted l rest).lanes ∧ t.arbiter = (s.granted l rest).arbiter
              ∧ t.settings = s.settings ∧ t.profiles = s.profiles ∧ t.presets = s.presets
              ∧ t.resetLow = s.resetLow
              ∧ (t.engine = s.engine
                ∨ ∃ k,
                    t.engine =
                      { s.engine with
                        phase := .merge, hand := some ⟨a, k⟩, bonus := s.settings.crcBonus
                        margin := s.settings.contestMargin, depth := s.settings.repairDepth
                        quorum := s.settings.voteQuorum, written := 0 })

/-- R103 to R106, R111, R119: a granted attempt is surplus when its sector is released, or when its entry is SETTLED or in
CONFLICT, and counts against the volume and, if there is one, the entry; it is mismatched when its length or mark differs
from its entry's; otherwise its entry becomes busy and the engine latches the settings and begins the merge. -/
def Obligations.GrantsClassifyKnownSectors : Prop :=
  ∀ (s : State) (l : Fin 4) (a : Attempt) (rest : List Attempt), s.Grants l a rest → s.KeysDistinct →
    let t := s.granted l rest
    let v := a.key.track.volume
    let x := s.volumes[v]
    let up (k : Nat) := if k < 65535 then k + 1 else k
    let released :=
      ∃ r ∈ s.tracks, r.2.key = a.key.track ∧ r.2.releasedSet.getLsbD (a.key.sector - x.firstSector) = true
    (released → exec .grant s = .next (t.setVolume v { x with surplus := up x.surplus }))
      ∧ ∀ i e, (i, e) ∈ s.entries → e.key = a.key → ¬ released →
          (e.status = .settled ∨ e.status = .conflict →
            exec .grant s =
              .next ((t.setVolume v { x with surplus := up x.surplus }).setEntry i { e with surplus := up e.surplus }))
            ∧ (e.status = .opened ∨ e.status = .provisional →
                (a.dataLength ≠ e.dataLength ∨ a.deleted ≠ e.deleted →
                  exec .grant s = .next (t.setEntry i { e with mismatches := up e.mismatches }))
                  ∧ (a.dataLength = e.dataLength → a.deleted = e.deleted →
                      exec .grant s =
                        .next { t.setEntry i { e with busy := true } with
                          engine :=
                            { s.engine with
                              phase := .merge, hand := some ⟨a, i⟩, bonus := s.settings.crcBonus
                              margin := s.settings.contestMargin, depth := s.settings.repairDepth
                              quorum := s.settings.voteQuorum, written := 0 } }))

/-- R99, R107 to R110, R119: a granted attempt for a sector without an entry takes the lowest FREE entry and, for a track
without a record, the lowest free track record, each set afresh; the counts follow, TABLE_LOW is raised when the free
count falls below the threshold with the warning clear, and the merge begins. Where either table has none free, the
attempt is discarded, the volume's count rises, TABLE_FULL is raised, and neither is taken. -/
def Obligations.GrantsAllocateForNewSectors : Prop :=
  ∀ (s : State) (l : Fin 4) (a : Attempt) (rest : List Attempt),
    s.Grants l a rest → s.KeysDistinct → (∀ e ∈ s.entries, e.2.key ≠ a.key) →
    let t := s.granted l rest
    let v := a.key.track.volume
    let x := s.volumes[v]
    let free := s.freeEntries - 1
    let lowered := free < s.settings.lowThreshold ∧ s.lowWarning = false
    let allocated (j : Nat) (r : Track) (i : Nat) : State :=
      let u : State :=
        { t with
          tracks := Table.put s.tracks j { r with live := r.live + 1 }
          volumes := s.volumes.set v { x with live := x.live + 1 }
          entries :=
            Table.put s.entries i
              { key := a.key, status := .opened, busy := true, dataLength := a.dataLength, deleted := a.deleted
                target := s.settings.confirmTarget, surplus := 0, mismatches := 0, merged := 0, crcGood := 0
                origin := .none, confirmations := 0, conflicts := 0, replacements := 0, conflictRecorded := false
                voteConfirm := false, generation := 0, blank := 0, contestedCount := 0, contestedList := []
                repair := .notTried, unsearched := 0 }
          slots :=
            Table.put s.slots i
              { lists := List.replicate (a.dataLength + 2) [], witness := none
                image := List.replicate (a.dataLength + 2) 0 }
          freeEntries := free
          lowWarning := if lowered then true else s.lowWarning
          engine :=
            { s.engine with
              phase := .merge, hand := some ⟨a, i⟩, bonus := s.settings.crcBonus
              margin := s.settings.contestMargin, depth := s.settings.repairDepth
              quorum := s.settings.voteQuorum, written := 0 } }
      if lowered then u.raise .tableLow else u
    let full := (t.setVolume v
      { x with tableFull := if x.tableFull < 65535 then x.tableFull + 1 else x.tableFull }).raise .tableFull
    (∀ i : Nat, i < 4096 → Table.get s.entries i = none → (∀ k < i, Table.get s.entries k ≠ none) →
      (∀ j r, Table.get s.tracks j = some r → r.key = a.key.track →
          r.releasedSet.getLsbD (a.key.sector - x.firstSector) = false →
          exec .grant s = .next (allocated j r i))
        ∧ ((∀ r ∈ s.tracks, r.2.key ≠ a.key.track) →
            (∀ j : Nat, j < 512 → Table.get s.tracks j = none → (∀ k < j, Table.get s.tracks k ≠ none) →
              exec .grant s = .next (allocated j ⟨a.key.track, 0, 0, 0, 0, false⟩ i))))
      ∧ ((∀ i < 4096, Table.get s.entries i ≠ none) →
          (∀ r ∈ s.tracks, r.2.key = a.key.track →
            r.2.releasedSet.getLsbD (a.key.sector - x.firstSector) = false) →
          exec .grant s = .next full)
      ∧ ((∀ r ∈ s.tracks, r.2.key ≠ a.key.track) → (∀ j < 512, Table.get s.tracks j ≠ none) →
          exec .grant s = .next full)

/-! ## Merging -/

/-- R123 to R129: a byte of weight 0 leaves a candidate list as it stood. A present value's weight grows by the byte's, after a
halving of every weight, the zeros dropping out, if it would pass 255, and it then stands behind every candidate of at
least its weight and ahead of the others. An absent value joins a list of fewer than three in the same way; in a list of
three it contests the last place, entering with the excess of its weight or wearing the last weight down. -/
def Obligations.CandidateListsAreUpdatedByRank : Prop :=
  ∀ (v : Byte) (w : Nat) (l : List Candidate), Ranked l → w ≤ 30 →
    let place (c : Candidate) (others : List Candidate) : List Candidate :=
      (others.filter fun x => decide (c.weight ≤ x.weight)) ++ c :: others.filter fun x => decide (x.weight < c.weight)
    Ranked (updateList v w l)
      ∧ (w = 0 → updateList v w l = l)
      ∧ (1 ≤ w →
          (∀ u, Candidate.mk v u ∈ l → u + w ≤ 255 →
            updateList v w l = place ⟨v, u + w⟩ (l.filter fun x => decide (x.value ≠ v)))
            ∧ (∀ u, Candidate.mk v u ∈ l → 255 < u + w →
                updateList v w l =
                  place ⟨v, u / 2 + w⟩
                    (((l.filter fun x => decide (x.value ≠ v)).map fun x => ⟨x.value, x.weight / 2⟩).filter
                      fun x => decide (x.weight ≠ 0)))
            ∧ ((∀ x ∈ l, x.value ≠ v) →
                (l.length < 3 → updateList v w l = place ⟨v, w⟩ l)
                  ∧ ∀ a b t, l = [a, b, t] →
                      (t.weight < w → updateList v w l = place ⟨v, w - t.weight⟩ [a, b])
                        ∧ (w = t.weight → updateList v w l = [a, b])
                        ∧ (w < t.weight → updateList v w l = [a, b, ⟨t.value, t.weight - w⟩])))

/-- R118, R120, R123, R130 to R136: at the merge end every position of the entry's lists not yet written has been updated by
the attempt's byte and weight there, each on its own; the merge counts rise; a CRC-good attempt becomes the witness of an
entry without one, confirms an equal witness, replaces a weak one and is a conflict with a strong one, and a CRC-bad
attempt leaves the witness state as it stood; and the engine enters EVALUATION. That the event without a merge leaves the
state as it is, is the model's choice (log entry 1). -/
def Obligations.MergeEndUpdatesListsAndWitness : Prop :=
  ∀ s : State,
    (s.engine.phase ≠ .merge → exec .mergeEnd s = .next s)
      ∧ ∀ (h : Hand) (e : Entry) (x : Slot), s.engine.phase = .merge → s.engine.hand = some h → s.RecordsWhole →
          Table.get s.entries h.entry = some e → Table.get s.slots h.entry = some x →
          let a := h.attempt
          let up (top k : Nat) := if k < top then k + 1 else k
          let counted : Entry :=
            { e with
              merged := up 65535 e.merged, crcGood := if a.crcGood then up 65535 e.crcGood else e.crcGood }
          ∃ lists : List (List Candidate),
            lists.length = x.lists.length
              ∧ (∀ k < e.dataLength + 2,
                  lists[k]? =
                    if k < s.engine.written then x.lists[k]?
                    else
                      some (updateList (a.bytes.getD k 0)
                        (a.confidences.getD k 0 + if a.crcGood then s.engine.bonus else 0) (x.lists.getD k [])))
              ∧ let ended (e' : Entry) (witness : Option (List Byte)) : State :=
                  { s with
                    entries := Table.put s.entries h.entry e'
                    slots := Table.put s.slots h.entry { lists := lists, witness := witness, image := x.image }
                    engine :=
                      { s.engine with
                        phase := .evaluation, written := max s.engine.written (a.dataLength + 2) } }
                (a.crcGood = false → exec .mergeEnd s = .next (ended counted x.witness))
                  ∧ (a.crcGood = true →
                      (x.witness = none →
                        exec .mergeEnd s =
                          .next (ended { counted with origin := .attempt, confirmations := 1 } (some a.bytes)))
                        ∧ ∀ w, x.witness = some w →
                            (a.bytes = w →
                              exec .mergeEnd s =
                                .next (ended { counted with confirmations := up 15 e.confirmations } (some w)))
                              ∧ (a.bytes ≠ w → e.confirmations = 0 →
                                  exec .mergeEnd s =
                                    .next (ended
                                      { counted with
                                        origin := .attempt, confirmations := 1
                                        replacements := up 255 e.replacements } (some a.bytes)))
                              ∧ (a.bytes ≠ w → 1 ≤ e.confirmations →
                                  exec .mergeEnd s =
                                    .next (ended
                                      { counted with conflicts := up 255 e.conflicts, conflictRecorded := true }
                                      (some w))))

/-! ## Evaluation -/

/-- R138, R140: the voted image holds the head of every list and 00h at the blank positions, which the blank count counts;
and the contested set holds exactly the positions whose two best candidates lie within the margin, in order of their
difference and, for equal differences, of position. -/
def Obligations.VoteAndContestedSetReadTheLists : Prop :=
  ∀ (margin : Nat) (lists : List (List Candidate)),
    let gap (k : Nat) : Nat :=
      match lists.getD k [] with | a :: b :: _ => a.weight - b.weight | _ => 0
    (votedImage lists).length = lists.length
      ∧ (∀ k < lists.length,
          (lists.getD k [] = [] → (votedImage lists)[k]? = some 0)
            ∧ ∀ c rest, lists.getD k [] = c :: rest → (votedImage lists)[k]? = some c.value)
      ∧ blankCount lists = ((List.range lists.length).filter fun k => (lists.getD k []).isEmpty).length
      ∧ (∀ k, k ∈ contestedSet margin lists ↔
          k < lists.length ∧ 2 ≤ (lists.getD k []).length ∧ gap k ≤ margin)
      ∧ (contestedSet margin lists).Pairwise fun j k => gap j < gap k ∨ (gap j = gap k ∧ j < k)

/-- R141 to R143, R145, R146: with a witness, a good vote without blank positions at quorum confirms an equal witness once in
the entry's life, replaces a differing weak one and is a conflict with a differing strong one, and any other vote leaves
the witness state as it stood, the image becoming the witness; without one, a good vote forms a witness, strong at
quorum and weak below it, and a vote with blank positions is only the image. Outside the repair search the repair
outcome is NOT_TRIED with nothing unsearched. -/
def Obligations.TheVoteIsWeighedAgainstTheWitness : Prop :=
  ∀ (e : Entry) (p : Profile) (x : Slot) (margin depth quorum : Nat),
    let voted := votedImage x.lists
    let full := ∀ l ∈ x.lists, l ≠ []
    let good := full ∧ p.imageGood e.deleted voted = true
    let up (top k : Nat) := if k < top then k + 1 else k
    let same (witness : Option (List Byte)) (image : List Byte) : Decision :=
      { witness := witness, origin := e.origin, confirmations := e.confirmations, voteConfirm := e.voteConfirm
        conflictRecorded := e.conflictRecorded, replacements := e.replacements, conflicts := e.conflicts
        image := image, repair := .notTried, unsearched := 0 }
    let d := e.decide p x margin depth quorum
    (∀ w, x.witness = some w →
      (¬ good ∨ e.merged < quorum ∨ (voted = w ∧ e.voteConfirm = true) → d = same (some w) w)
        ∧ (good → quorum ≤ e.merged → voted = w → e.voteConfirm = false →
            d = { same (some w) w with confirmations := up 15 e.confirmations, voteConfirm := true })
        ∧ (good → quorum ≤ e.merged → voted ≠ w → e.confirmations = 0 →
            d =
              { same (some voted) voted with
                origin := .vote, confirmations := 1, voteConfirm := true, replacements := up 255 e.replacements })
        ∧ (good → quorum ≤ e.merged → voted ≠ w → 1 ≤ e.confirmations →
            d = { same (some w) w with conflicts := up 255 e.conflicts, conflictRecorded := true }))
      ∧ (x.witness = none →
          (¬ full → d = same none voted)
            ∧ (good → quorum ≤ e.merged →
                d = { same (some voted) voted with origin := .vote, confirmations := 1, voteConfirm := true })
            ∧ (good → e.merged < quorum →
                d = { same (some voted) voted with origin := .vote, confirmations := 0 }))

/-- R139, R141, R147, R148: for an entry without a witness, without blank positions and with a bad vote, the search tries
every change of the first n contested positions to their second candidates, n the smaller of the set's size and the depth;
exactly one good trial is accepted as a weak witness of origin REPAIR, none and several leave the entry without one, and the
positions left untried are counted. An image is good when its CRC over the marks in force, the entry's mark and its
bytes leaves the residue 0000h. -/
def Obligations.RepairTriesTheContestedPositions : Prop :=
  ∀ (e : Entry) (p : Profile) (x : Slot) (margin depth quorum : Nat),
    let voted := votedImage x.lists
    let k := contestedSet margin x.lists
    let n := min k.length depth
    let isGood (image : List Byte) : Prop :=
      crcRun p.crcPreset
        (List.replicate (if p.encoding = .gcr then 0 else p.crcMarkCount) p.markValue
          ++ (if e.deleted then p.deletedMark else p.dataMark) :: image) = 0
    let isTrial (t : Nat) (image : List Byte) : Prop :=
      image.length = voted.length
        ∧ ∀ pos < voted.length,
            ((∃ j, j < n ∧ k[j]? = some pos ∧ t.testBit j = true) →
              ∃ a b rest, x.lists.getD pos [] = a :: b :: rest ∧ image[pos]? = some b.value)
              ∧ ((∀ j, j < n → k[j]? = some pos → t.testBit j = false) → image[pos]? = voted[pos]?)
    let same (witness : Option (List Byte)) (image : List Byte) : Decision :=
      { witness := witness, origin := e.origin, confirmations := e.confirmations, voteConfirm := e.voteConfirm
        conflictRecorded := e.conflictRecorded, replacements := e.replacements, conflicts := e.conflicts
        image := image, repair := .notTried, unsearched := 0 }
    let d := e.decide p x margin depth quorum
    x.witness = none → (∀ l ∈ x.lists, l ≠ []) → ¬ isGood voted →
    (n = 0 → d = { same none voted with unsearched := k.length })
      ∧ (1 ≤ n →
          ((∀ t image, 1 ≤ t → t < 2 ^ n → isTrial t image → ¬ isGood image) →
            d = { same none voted with repair := .noneFound, unsearched := k.length - n })
            ∧ (∀ t image, 1 ≤ t → t < 2 ^ n → isTrial t image → isGood image →
                (∀ u other, 1 ≤ u → u < 2 ^ n → isTrial u other → isGood other → u = t) →
                d =
                  { same (some image) image with
                    origin := .repair, confirmations := 0, repair := .accepted, unsearched := k.length - n })
            ∧ (∀ t image u other, 1 ≤ t → t < u → u < 2 ^ n → isTrial t image → isGood image →
                isTrial u other → isGood other →
                d = { same none voted with repair := .ambiguous, unsearched := k.length - n }))

/-- R101, R118, R150 to R152, R154, R155: at the evaluation completion the decided witness and image stand in the slot, the
record takes the decision, the evaluation fields and the status derived from them, the generation advances modulo 256 and
the entry is no longer busy; a change to SETTLED counts at the volume, the lane and the track, raises SETTLED, and, where the
track's sum first reaches the sectors per track, marks the track done with TRACK_DONE; a change to CONFLICT raises CONFLICT;
any other leaves every count and flag; and the engine is idle, holding no attempt. That the idle engine keeps its latched
values, and that the event without an evaluation leaves the state as it is, are the model's choices (log entries 11 and
1). -/
def Obligations.EvaluationCompletionTakesEffect : Prop :=
  ∀ s : State,
    (s.engine.phase ≠ .evaluation → exec .evaluationCompletion s = .next s)
      ∧ ∀ (h : Hand) (e : Entry) (x : Slot), s.engine.phase = .evaluation → s.engine.hand = some h →
          Table.get s.entries h.entry = some e → Table.get s.slots h.entry = some x →
          let v := e.key.track.volume
          let d := e.decide (s.profileOf v) x s.engine.margin s.engine.depth s.engine.quorum
          let k := contestedSet s.engine.margin x.lists
          let status : Status :=
            if d.conflictRecorded = true then .conflict
            else if d.witness = none then .opened
            else if e.target ≤ d.confirmations then .settled
            else .provisional
          let t : State :=
            { s with
              entries :=
                Table.put s.entries h.entry
                  { e with
                    status := status, busy := false, origin := d.origin, confirmations := d.confirmations
                    voteConfirm := d.voteConfirm, conflictRecorded := d.conflictRecorded
                    replacements := d.replacements, conflicts := d.conflicts
                    generation := (e.generation + 1) % 256, blank := blankCount x.lists
                    contestedCount := k.length, contestedList := k.take 8, repair := d.repair
                    unsearched := d.unsearched }
              slots :=
                Table.put s.slots h.entry { lists := x.lists, witness := d.witness, image := d.image }
              engine := { s.engine with phase := .idle, hand := none, written := 0 } }
          (status ≠ .settled ∨ e.status = .settled →
            exec .evaluationCompletion s =
              .next (if status = .conflict ∧ e.status ≠ .conflict then t.raise .conflict else t))
            ∧ (status = .settled → e.status ≠ .settled → s.KeysDistinct →
                ∀ j r, Table.get s.tracks j = some r → r.key = e.key.track →
                  let y := s.volumes[v]
                  let m := s.lanes[h.attempt.lane]
                  let done := r.done = false ∧ y.sectorsPerTrack ≤ r.settled + 1 + r.released
                  let u : State :=
                    ({ t with
                      volumes := s.volumes.set v
                        { y with
                          settled := y.settled + 1
                          tracksDone := if done then y.tracksDone + 1 else y.tracksDone }
                      lanes := s.lanes.set h.attempt.lane
                        { m with
                          counts :=
                            { m.counts with
                              settledByPass :=
                                if m.counts.settledByPass < 255 then m.counts.settledByPass + 1
                                else m.counts.settledByPass } }
                      tracks := Table.put s.tracks j
                        { r with settled := r.settled + 1, done := if done then true else r.done } }).raise .settled
                  exec .evaluationCompletion s = .next (if done then u.raise .trackDone else u))

/-! ## CRC and encoding -/

/-- R20: the register starts at the preset and takes a field's bytes in order, each most significant bit first; each bit
shifts the register left and, where it differs from the former top bit, exclusive-ORs 1021h into it. Two CRC bytes,
passed through the register high byte first after a run of bytes, leave it at 0000h exactly when they are the register's
value after that run. The rule's three check values hold. -/
def Obligations.CrcResidueIsZeroExactlyForTheRightCrc : Prop :=
  (∀ (preset : Word) (bytes : List Byte) (hi lo : Byte),
    crcRun preset (bytes ++ [hi, lo]) = 0 ↔ hi ++ lo = crcRun preset bytes)
    ∧ (∀ preset : Word, crcRun preset [] = preset)
    ∧ (∀ (preset : Word) (v : Byte) (bytes : List Byte),
        crcRun preset (v :: bytes) =
          crcRun
            (crcBit
              (crcBit
                (crcBit
                  (crcBit
                    (crcBit
                      (crcBit (crcBit (crcBit preset (v.getLsbD 7)) (v.getLsbD 6)) (v.getLsbD 5)) (v.getLsbD 4))
                    (v.getLsbD 3))
                  (v.getLsbD 2))
                (v.getLsbD 1))
              (v.getLsbD 0))
            bytes)
    ∧ (∀ (r : Word) (b : Bool) (k : Nat), k < 16 →
        (crcBit r b).getLsbD k =
          ((decide (k ≠ 0) && r.getLsbD (k - 1))
            != ((r.getLsbD 15 != b) && decide (k = 0 ∨ k = 5 ∨ k = 12))))
    ∧ crcRun 0xFFFF [0x31, 0x32, 0x33, 0x34, 0x35, 0x36, 0x37, 0x38, 0x39] = 0x29B1
    ∧ crcRun 0x0000 [0x31, 0x32, 0x33, 0x34, 0x35, 0x36, 0x37, 0x38, 0x39] = 0x31C3
    ∧ crcRun 0xFFFF [0xA1, 0xA1, 0xA1] = 0xCDB4

/-- R171, R174: a port that receives the bytes by which a command is sent takes exactly that command, whatever bytes follow
in the data phase: decoding and encoding agree for every well-formed command and every operand. -/
def Obligations.CommandsSurviveTheirTransaction : Prop :=
  ∀ (i : Instr) (p : PortId) (bytes after : List Byte), i.wellFormed = true → i.transaction = some (p, bytes) →
    decodeTransaction p (bytes ++ after) = some i

/-! ## Invariants of every step -/

/-- R99, R102, R110: the tables stay in canonical form with the free entry count equal to the number of FREE entries, and no
two entries and no two track records ever share a key. -/
def Obligations.TablesStayCanonicalWithDistinctKeys : Prop :=
  ∀ s t : State, s.TablesCanonical → s.KeysDistinct → step s = .next t → t.TablesCanonical ∧ t.KeysDistinct

/-- R1, R31, R33, R38, R39, R44, R48, R52, R58, R86, R179: every field a master can write stays in its range, and so do the
descriptors a lane holds and what it latches and derives from them: gain, tolerance and bias, the effective cell period of a
lane that is not IDLE, and the current cell period while intervals are measured, which is in CAPTURING and FINISHING only.
The rotation order goes on holding each lane exactly once. -/
def Obligations.FieldsStayInRange : Prop :=
  ∀ s t : State, s.FieldsInRange → s.ClocksInRange → s.OrderComplete → step s = .next t →
    t.FieldsInRange ∧ t.ClocksInRange ∧ t.OrderComplete

/-- R14, R47, R76, R123, R125: byte confidences, those of a held ID among them, and latched bonuses stay within 0 to 15, and
every candidate list in candidate memory stays ranked. -/
def Obligations.CandidateListsStayRanked : Prop :=
  ∀ s t : State, s.EvidenceSound → step s = .next t → t.EvidenceSound

/-- R73, R82, R116: every attempt, framer and slot stays whole. -/
def Obligations.RecordsStayWhole : Prop :=
  ∀ s t : State, s.RecordsWhole → s.TablesCanonical → step s = .next t → t.RecordsWhole

/-- R61, R73, R82, R97: a FREE volume is named by no entry, track record, descriptor, queued attempt or attempt in hand, an IDLE
lane holds no descriptor and no attempt, and a queue holds at most 6 attempts, all of its lane's pass: each names the
volume, cylinder and head of the active descriptor. -/
def Obligations.NamedVolumesStayOpen : Prop :=
  ∀ s t : State, s.NamedVolumesOpen → s.LanesConsistent → s.TablesCanonical → step s = .next t →
    t.NamedVolumesOpen ∧ t.LanesConsistent

/-- R103, R118: the engine holds an attempt exactly while it is busy, and the only busy entry is the entry of that attempt,
neither SETTLED nor in CONFLICT. -/
def Obligations.OnlyTheEntryInHandIsBusy : Prop :=
  ∀ s t : State, s.BusyEntryInHand → s.TablesCanonical → step s = .next t → t.BusyEntryInHand

/-- R132, R144, R152: an entry that is not busy has the status its witness state gives, and the witness state stays
sound. -/
def Obligations.StatusFollowsTheWitness : Prop :=
  ∀ s t : State, s.StatusFollowsWitness → s.BusyEntryInHand → s.TablesCanonical → step s = .next t →
    t.StatusFollowsWitness

/-- R95, R98, R100, R101: each volume's and each track record's live and settled counts stay the numbers of their entries; an OPEN
volume's released-sectors count stays the sum of its track records' released counts and its tracks-done count the number of
its done track records; each track record's released count stays the number of offsets in its released set, which lie below the
sectors per track, no released sector has an entry, settled and released sectors together never exceed the sectors per track,
and the done flag is set exactly when they have reached it; and every entry and queued attempt keeps its sector in its volume's
range. -/
def Obligations.CountsMatchTheEntries : Prop :=
  ∀ s t : State, s.VolumeCountsMatch → s.VolumeTalliesMatch → s.TrackCountsMatch → s.GeometrySound →
    s.ReleasedSetsMatch → s.TablesCanonical → s.KeysDistinct → s.NamedVolumesOpen → s.LanesConsistent →
    s.BusyEntryInHand → step s = .next t →
    t.VolumeCountsMatch ∧ t.VolumeTalliesMatch ∧ t.TrackCountsMatch ∧ t.GeometrySound ∧ t.ReleasedSetsMatch

/-- R185, R186: the state after reset meets every invariant stated above. -/
def Obligations.ResetMeetsTheInvariants : Prop :=
  State.reset.TablesCanonical ∧ State.reset.KeysDistinct ∧ State.reset.FieldsInRange ∧ State.reset.ClocksInRange
    ∧ State.reset.OrderComplete
    ∧ State.reset.EvidenceSound ∧ State.reset.RecordsWhole ∧ State.reset.NamedVolumesOpen
    ∧ State.reset.LanesConsistent ∧ State.reset.BusyEntryInHand ∧ State.reset.StatusFollowsWitness
    ∧ State.reset.VolumeCountsMatch ∧ State.reset.VolumeTalliesMatch ∧ State.reset.TrackCountsMatch
    ∧ State.reset.GeometrySound
    ∧ State.reset.ReleasedSetsMatch
end

