-- ==== Sys2Proof/Laws/Bytes.lean ====
section
/-! SUPPORT. What the byte-order, CRC and framer helpers can do. -/

namespace Sys2Proof

/-- A word sent as two bytes, high byte first, is the word again when it is read back. -/
@[simp] theorem wordOf_wordBytes (w : Word) : wordOf (w.extractLsb' 8 8) (w.extractLsb' 0 8) = w := by
  unfold wordOf
  ext k hk
  simp only [BitVec.getElem_append, BitVec.getElem_extractLsb']
  split
  · simp [BitVec.getLsbD_eq_getElem hk]
  · rename_i h
    rw [show 8 + (k - 8) = k by omega]
    simp [BitVec.getLsbD_eq_getElem hk]

namespace Machine

@[simp] theorem crcRun_nil (r : Word) : crcRun r [] = r := rfl

@[simp] theorem crcRun_cons (r : Word) (b : Byte) (bs : List Byte) : crcRun r (b :: bs) = crcRun (crcByte r b) bs := rfl

/-- A run of bytes after a run of bytes. -/
theorem crcRun_append (r : Word) (as bs : List Byte) : crcRun r (as ++ bs) = crcRun (crcRun r as) bs := by
  simp [crcRun, List.foldl_append]

/-- Decoding a byte never gives a confidence above 15. -/
theorem leastConfidence_le (cells : List RecordedCell) : leastConfidence cells ≤ 15 := by
  unfold leastConfidence
  have h : ∀ (l : List RecordedCell) (m : Nat), l.foldl (fun m c => min m c.confidence) m ≤ m := by
    intro l
    induction l with
    | nil => intro m; exact Nat.le_refl m
    | cons c t ih => intro m; exact Nat.le_trans (ih _) (Nat.min_le_left _ _)
  exact h cells 15

theorem decodeByte_confidence_le (e : Encoding) (cells : List RecordedCell) : (decodeByte e cells).confidence ≤ 15 := by
  cases e
  · exact leastConfidence_le cells
  · exact leastConfidence_le cells
  · unfold decodeByte
    dsimp only
    generalize ((if (gcrNibble ((cells.take 5).map (·.one))).isNone then 1 else 0)
      + (if (gcrNibble ((cells.drop 5).map (·.one))).isNone then 1 else 0)) = n
    split
    · exact leastConfidence_le cells
    · omega

/-- The interval's confidence lies in 0 to 15. -/
theorem intervalConfidence_le (e : Encoding) (kraw : Int) (c : Nat) (d : Int) : intervalConfidence e kraw c d ≤ 15 := by
  unfold intervalConfidence
  split
  · exact Nat.div_le_of_le_mul (by rw [Nat.mul_comm]; exact Nat.mul_le_mul_right _ (Nat.sub_le _ _))
  · omega

/-- A cell changes no framer that is STOPPED, and only a data field reports a pair. -/
theorem Framer.takeCell_stopped {f : Framer} (h : f.mode = .stopped) (p : Profile) (c : RecordedCell) (n : Counts) :
    f.takeCell p c n = ⟨f, n, none⟩ := by
  unfold Framer.takeCell
  rw [h]

@[simp] theorem Framer.markByte_pair (p : Profile) (b : Byte) (f : Framer) (n : Counts) :
    (f.markByte p b n).pair = none := by
  unfold Framer.markByte Framer.strayMark
  split
  · rfl
  · split <;> rfl

@[simp] theorem Framer.idFieldByte_pair (p : Profile) (b : DecodedByte) (f : Framer) (n : Counts) :
    (f.idFieldByte p b n).pair = none := by
  unfold Framer.idFieldByte
  dsimp only
  split <;> rfl

theorem Framer.fieldCell_pair {f : Framer} {p : Profile} {c : RecordedCell} {n : Counts} {x : FieldPair}
    (h : (f.fieldCell p c n).pair = some x) : f.mode = .data := by
  unfold Framer.fieldCell Framer.byteDone at h
  cases hm : f.mode <;> simp only [hm] at h <;> split at h <;> simp_all

theorem Framer.takeCell_pair {f : Framer} {p : Profile} {c : RecordedCell} {n : Counts} {x : FieldPair}
    (h : (f.takeCell p c n).pair = some x) : f.mode = .data := by
  unfold Framer.takeCell at h
  cases hm : f.mode <;> simp only [hm] at h
  · cases h
  · cases h
  · exact absurd (Framer.fieldCell_pair h) (by simp [Framer.push, hm])
  · exact absurd (Framer.fieldCell_pair h) (by simp [Framer.push, hm])
  · split at h <;> cases h
  · rfl

/-- The mark search counts nothing and keeps the ID held, the gap count and the finish request. -/
theorem Framer.hunt_frame (p : Profile) (c : RecordedCell) (f : Framer) :
    let g := f.hunt p c
    g.heldId = f.heldId ∧ g.gapCount = f.gapCount ∧ g.finishing = f.finishing
      ∧ (g.mode = f.mode ∨ (g.mode = .mark ∧ g.markFromGap = (f.mode == .gap))) := by
  dsimp only
  unfold Framer.hunt Framer.countMatch Framer.enterMark
  dsimp only
  split <;> (repeat' split) <;> simp

end Machine

end Sys2Proof
end

