-- ==== Sys2Proof/Laws/State.lean ====
section
/-! SUPPORT. One lemma for each field of State under each named update, so that no proof unfolds a record update. -/

namespace Sys2Proof.Machine

variable (s : State)

/-! ## `State.setLane` -/

@[simp] theorem State.setLane_profiles (l : Fin 4) (x : Lane) : (s.setLane l x).profiles = s.profiles := rfl

@[simp] theorem State.setLane_presets (l : Fin 4) (x : Lane) : (s.setLane l x).presets = s.presets := rfl

@[simp] theorem State.setLane_settings (l : Fin 4) (x : Lane) : (s.setLane l x).settings = s.settings := rfl

@[simp] theorem State.setLane_volumes (l : Fin 4) (x : Lane) : (s.setLane l x).volumes = s.volumes := rfl

@[simp] theorem State.setLane_tracks (l : Fin 4) (x : Lane) : (s.setLane l x).tracks = s.tracks := rfl

@[simp] theorem State.setLane_entries (l : Fin 4) (x : Lane) : (s.setLane l x).entries = s.entries := rfl

@[simp] theorem State.setLane_slots (l : Fin 4) (x : Lane) : (s.setLane l x).slots = s.slots := rfl

@[simp] theorem State.setLane_freeEntries (l : Fin 4) (x : Lane) : (s.setLane l x).freeEntries = s.freeEntries := rfl

@[simp] theorem State.setLane_lowWarning (l : Fin 4) (x : Lane) : (s.setLane l x).lowWarning = s.lowWarning := rfl

@[simp] theorem State.setLane_lanes (l : Fin 4) (x : Lane) : (s.setLane l x).lanes = s.lanes.set l x := rfl

@[simp] theorem State.setLane_arbiter (l : Fin 4) (x : Lane) : (s.setLane l x).arbiter = s.arbiter := rfl

@[simp] theorem State.setLane_engine (l : Fin 4) (x : Lane) : (s.setLane l x).engine = s.engine := rfl

@[simp] theorem State.setLane_bay (l : Fin 4) (x : Lane) : (s.setLane l x).bay = s.bay := rfl

@[simp] theorem State.setLane_station (l : Fin 4) (x : Lane) : (s.setLane l x).station = s.station := rfl

@[simp] theorem State.setLane_resetLow (l : Fin 4) (x : Lane) : (s.setLane l x).resetLow = s.resetLow := rfl

@[simp] theorem State.setLane_pending (l : Fin 4) (x : Lane) : (s.setLane l x).pending = s.pending := rfl

@[simp] theorem State.setLane_port (l : Fin 4) (x : Lane) (q : PortId) : (s.setLane l x).port q = s.port q := by cases q <;> rfl

/-! ## `State.setVolume` -/

@[simp] theorem State.setVolume_profiles (v : Fin 8) (x : Volume) : (s.setVolume v x).profiles = s.profiles := rfl

@[simp] theorem State.setVolume_presets (v : Fin 8) (x : Volume) : (s.setVolume v x).presets = s.presets := rfl

@[simp] theorem State.setVolume_settings (v : Fin 8) (x : Volume) : (s.setVolume v x).settings = s.settings := rfl

@[simp] theorem State.setVolume_volumes (v : Fin 8) (x : Volume) : (s.setVolume v x).volumes = s.volumes.set v x := rfl

@[simp] theorem State.setVolume_tracks (v : Fin 8) (x : Volume) : (s.setVolume v x).tracks = s.tracks := rfl

@[simp] theorem State.setVolume_entries (v : Fin 8) (x : Volume) : (s.setVolume v x).entries = s.entries := rfl

@[simp] theorem State.setVolume_slots (v : Fin 8) (x : Volume) : (s.setVolume v x).slots = s.slots := rfl

@[simp] theorem State.setVolume_freeEntries (v : Fin 8) (x : Volume) : (s.setVolume v x).freeEntries = s.freeEntries := rfl

@[simp] theorem State.setVolume_lowWarning (v : Fin 8) (x : Volume) : (s.setVolume v x).lowWarning = s.lowWarning := rfl

@[simp] theorem State.setVolume_lanes (v : Fin 8) (x : Volume) : (s.setVolume v x).lanes = s.lanes := rfl

@[simp] theorem State.setVolume_arbiter (v : Fin 8) (x : Volume) : (s.setVolume v x).arbiter = s.arbiter := rfl

@[simp] theorem State.setVolume_engine (v : Fin 8) (x : Volume) : (s.setVolume v x).engine = s.engine := rfl

@[simp] theorem State.setVolume_bay (v : Fin 8) (x : Volume) : (s.setVolume v x).bay = s.bay := rfl

@[simp] theorem State.setVolume_station (v : Fin 8) (x : Volume) : (s.setVolume v x).station = s.station := rfl

@[simp] theorem State.setVolume_resetLow (v : Fin 8) (x : Volume) : (s.setVolume v x).resetLow = s.resetLow := rfl

@[simp] theorem State.setVolume_pending (v : Fin 8) (x : Volume) : (s.setVolume v x).pending = s.pending := rfl

@[simp] theorem State.setVolume_port (v : Fin 8) (x : Volume) (q : PortId) : (s.setVolume v x).port q = s.port q := by cases q <;> rfl

/-! ## `State.setEntry` -/

@[simp] theorem State.setEntry_profiles (i : Nat) (e : Entry) : (s.setEntry i e).profiles = s.profiles := rfl

@[simp] theorem State.setEntry_presets (i : Nat) (e : Entry) : (s.setEntry i e).presets = s.presets := rfl

@[simp] theorem State.setEntry_settings (i : Nat) (e : Entry) : (s.setEntry i e).settings = s.settings := rfl

@[simp] theorem State.setEntry_volumes (i : Nat) (e : Entry) : (s.setEntry i e).volumes = s.volumes := rfl

@[simp] theorem State.setEntry_tracks (i : Nat) (e : Entry) : (s.setEntry i e).tracks = s.tracks := rfl

@[simp] theorem State.setEntry_entries (i : Nat) (e : Entry) : (s.setEntry i e).entries = Table.put s.entries i e := rfl

@[simp] theorem State.setEntry_slots (i : Nat) (e : Entry) : (s.setEntry i e).slots = s.slots := rfl

@[simp] theorem State.setEntry_freeEntries (i : Nat) (e : Entry) : (s.setEntry i e).freeEntries = s.freeEntries := rfl

@[simp] theorem State.setEntry_lowWarning (i : Nat) (e : Entry) : (s.setEntry i e).lowWarning = s.lowWarning := rfl

@[simp] theorem State.setEntry_lanes (i : Nat) (e : Entry) : (s.setEntry i e).lanes = s.lanes := rfl

@[simp] theorem State.setEntry_arbiter (i : Nat) (e : Entry) : (s.setEntry i e).arbiter = s.arbiter := rfl

@[simp] theorem State.setEntry_engine (i : Nat) (e : Entry) : (s.setEntry i e).engine = s.engine := rfl

@[simp] theorem State.setEntry_bay (i : Nat) (e : Entry) : (s.setEntry i e).bay = s.bay := rfl

@[simp] theorem State.setEntry_station (i : Nat) (e : Entry) : (s.setEntry i e).station = s.station := rfl

@[simp] theorem State.setEntry_resetLow (i : Nat) (e : Entry) : (s.setEntry i e).resetLow = s.resetLow := rfl

@[simp] theorem State.setEntry_pending (i : Nat) (e : Entry) : (s.setEntry i e).pending = s.pending := rfl

@[simp] theorem State.setEntry_port (i : Nat) (e : Entry) (q : PortId) : (s.setEntry i e).port q = s.port q := by cases q <;> rfl

/-! ## `State.setTrack` -/

@[simp] theorem State.setTrack_profiles (i : Nat) (t : Track) : (s.setTrack i t).profiles = s.profiles := rfl

@[simp] theorem State.setTrack_presets (i : Nat) (t : Track) : (s.setTrack i t).presets = s.presets := rfl

@[simp] theorem State.setTrack_settings (i : Nat) (t : Track) : (s.setTrack i t).settings = s.settings := rfl

@[simp] theorem State.setTrack_volumes (i : Nat) (t : Track) : (s.setTrack i t).volumes = s.volumes := rfl

@[simp] theorem State.setTrack_tracks (i : Nat) (t : Track) : (s.setTrack i t).tracks = Table.put s.tracks i t := rfl

@[simp] theorem State.setTrack_entries (i : Nat) (t : Track) : (s.setTrack i t).entries = s.entries := rfl

@[simp] theorem State.setTrack_slots (i : Nat) (t : Track) : (s.setTrack i t).slots = s.slots := rfl

@[simp] theorem State.setTrack_freeEntries (i : Nat) (t : Track) : (s.setTrack i t).freeEntries = s.freeEntries := rfl

@[simp] theorem State.setTrack_lowWarning (i : Nat) (t : Track) : (s.setTrack i t).lowWarning = s.lowWarning := rfl

@[simp] theorem State.setTrack_lanes (i : Nat) (t : Track) : (s.setTrack i t).lanes = s.lanes := rfl

@[simp] theorem State.setTrack_arbiter (i : Nat) (t : Track) : (s.setTrack i t).arbiter = s.arbiter := rfl

@[simp] theorem State.setTrack_engine (i : Nat) (t : Track) : (s.setTrack i t).engine = s.engine := rfl

@[simp] theorem State.setTrack_bay (i : Nat) (t : Track) : (s.setTrack i t).bay = s.bay := rfl

@[simp] theorem State.setTrack_station (i : Nat) (t : Track) : (s.setTrack i t).station = s.station := rfl

@[simp] theorem State.setTrack_resetLow (i : Nat) (t : Track) : (s.setTrack i t).resetLow = s.resetLow := rfl

@[simp] theorem State.setTrack_pending (i : Nat) (t : Track) : (s.setTrack i t).pending = s.pending := rfl

@[simp] theorem State.setTrack_port (i : Nat) (t : Track) (q : PortId) : (s.setTrack i t).port q = s.port q := by cases q <;> rfl

/-! ## `State.setSlot` -/

@[simp] theorem State.setSlot_profiles (i : Nat) (x : Slot) : (s.setSlot i x).profiles = s.profiles := rfl

@[simp] theorem State.setSlot_presets (i : Nat) (x : Slot) : (s.setSlot i x).presets = s.presets := rfl

@[simp] theorem State.setSlot_settings (i : Nat) (x : Slot) : (s.setSlot i x).settings = s.settings := rfl

@[simp] theorem State.setSlot_volumes (i : Nat) (x : Slot) : (s.setSlot i x).volumes = s.volumes := rfl

@[simp] theorem State.setSlot_tracks (i : Nat) (x : Slot) : (s.setSlot i x).tracks = s.tracks := rfl

@[simp] theorem State.setSlot_entries (i : Nat) (x : Slot) : (s.setSlot i x).entries = s.entries := rfl

@[simp] theorem State.setSlot_slots (i : Nat) (x : Slot) : (s.setSlot i x).slots = Table.put s.slots i x := rfl

@[simp] theorem State.setSlot_freeEntries (i : Nat) (x : Slot) : (s.setSlot i x).freeEntries = s.freeEntries := rfl

@[simp] theorem State.setSlot_lowWarning (i : Nat) (x : Slot) : (s.setSlot i x).lowWarning = s.lowWarning := rfl

@[simp] theorem State.setSlot_lanes (i : Nat) (x : Slot) : (s.setSlot i x).lanes = s.lanes := rfl

@[simp] theorem State.setSlot_arbiter (i : Nat) (x : Slot) : (s.setSlot i x).arbiter = s.arbiter := rfl

@[simp] theorem State.setSlot_engine (i : Nat) (x : Slot) : (s.setSlot i x).engine = s.engine := rfl

@[simp] theorem State.setSlot_bay (i : Nat) (x : Slot) : (s.setSlot i x).bay = s.bay := rfl

@[simp] theorem State.setSlot_station (i : Nat) (x : Slot) : (s.setSlot i x).station = s.station := rfl

@[simp] theorem State.setSlot_resetLow (i : Nat) (x : Slot) : (s.setSlot i x).resetLow = s.resetLow := rfl

@[simp] theorem State.setSlot_pending (i : Nat) (x : Slot) : (s.setSlot i x).pending = s.pending := rfl

@[simp] theorem State.setSlot_port (i : Nat) (x : Slot) (q : PortId) : (s.setSlot i x).port q = s.port q := by cases q <;> rfl

/-! ## `State.raise` -/

@[simp] theorem State.raise_profiles (e : Event) : (s.raise e).profiles = s.profiles := rfl

@[simp] theorem State.raise_presets (e : Event) : (s.raise e).presets = s.presets := rfl

@[simp] theorem State.raise_settings (e : Event) : (s.raise e).settings = s.settings := rfl

@[simp] theorem State.raise_volumes (e : Event) : (s.raise e).volumes = s.volumes := rfl

@[simp] theorem State.raise_tracks (e : Event) : (s.raise e).tracks = s.tracks := rfl

@[simp] theorem State.raise_entries (e : Event) : (s.raise e).entries = s.entries := rfl

@[simp] theorem State.raise_slots (e : Event) : (s.raise e).slots = s.slots := rfl

@[simp] theorem State.raise_freeEntries (e : Event) : (s.raise e).freeEntries = s.freeEntries := rfl

@[simp] theorem State.raise_lowWarning (e : Event) : (s.raise e).lowWarning = s.lowWarning := rfl

@[simp] theorem State.raise_lanes (e : Event) : (s.raise e).lanes = s.lanes := rfl

@[simp] theorem State.raise_arbiter (e : Event) : (s.raise e).arbiter = s.arbiter := rfl

@[simp] theorem State.raise_engine (e : Event) : (s.raise e).engine = s.engine := rfl

@[simp] theorem State.raise_bay (e : Event) : (s.raise e).bay = s.bay.raise e := rfl

@[simp] theorem State.raise_station (e : Event) : (s.raise e).station = s.station.raise e := rfl

@[simp] theorem State.raise_resetLow (e : Event) : (s.raise e).resetLow = s.resetLow := rfl

@[simp] theorem State.raise_pending (e : Event) : (s.raise e).pending = s.pending := rfl

/-! ## `State.freeUp` -/

@[simp] theorem State.freeUp_profiles (n : Nat) : (s.freeUp n).profiles = s.profiles := rfl

@[simp] theorem State.freeUp_presets (n : Nat) : (s.freeUp n).presets = s.presets := rfl

@[simp] theorem State.freeUp_settings (n : Nat) : (s.freeUp n).settings = s.settings := rfl

@[simp] theorem State.freeUp_volumes (n : Nat) : (s.freeUp n).volumes = s.volumes := rfl

@[simp] theorem State.freeUp_tracks (n : Nat) : (s.freeUp n).tracks = s.tracks := rfl

@[simp] theorem State.freeUp_entries (n : Nat) : (s.freeUp n).entries = s.entries := rfl

@[simp] theorem State.freeUp_slots (n : Nat) : (s.freeUp n).slots = s.slots := rfl

@[simp] theorem State.freeUp_freeEntries (n : Nat) : (s.freeUp n).freeEntries = s.freeEntries + n := rfl

@[simp] theorem State.freeUp_lanes (n : Nat) : (s.freeUp n).lanes = s.lanes := rfl

@[simp] theorem State.freeUp_arbiter (n : Nat) : (s.freeUp n).arbiter = s.arbiter := rfl

@[simp] theorem State.freeUp_engine (n : Nat) : (s.freeUp n).engine = s.engine := rfl

@[simp] theorem State.freeUp_bay (n : Nat) : (s.freeUp n).bay = s.bay := rfl

@[simp] theorem State.freeUp_station (n : Nat) : (s.freeUp n).station = s.station := rfl

@[simp] theorem State.freeUp_resetLow (n : Nat) : (s.freeUp n).resetLow = s.resetLow := rfl

@[simp] theorem State.freeUp_pending (n : Nat) : (s.freeUp n).pending = s.pending := rfl

@[simp] theorem State.freeUp_port (n : Nat) (q : PortId) : (s.freeUp n).port q = s.port q := by cases q <;> rfl

/-! ## `State.setPort` -/

@[simp] theorem State.setPort_profiles (p : PortId) (x : Port) : (s.setPort p x).profiles = s.profiles := by cases p <;> rfl

@[simp] theorem State.setPort_presets (p : PortId) (x : Port) : (s.setPort p x).presets = s.presets := by cases p <;> rfl

@[simp] theorem State.setPort_settings (p : PortId) (x : Port) : (s.setPort p x).settings = s.settings := by cases p <;> rfl

@[simp] theorem State.setPort_volumes (p : PortId) (x : Port) : (s.setPort p x).volumes = s.volumes := by cases p <;> rfl

@[simp] theorem State.setPort_tracks (p : PortId) (x : Port) : (s.setPort p x).tracks = s.tracks := by cases p <;> rfl

@[simp] theorem State.setPort_entries (p : PortId) (x : Port) : (s.setPort p x).entries = s.entries := by cases p <;> rfl

@[simp] theorem State.setPort_slots (p : PortId) (x : Port) : (s.setPort p x).slots = s.slots := by cases p <;> rfl

@[simp] theorem State.setPort_freeEntries (p : PortId) (x : Port) : (s.setPort p x).freeEntries = s.freeEntries := by cases p <;> rfl

@[simp] theorem State.setPort_lowWarning (p : PortId) (x : Port) : (s.setPort p x).lowWarning = s.lowWarning := by cases p <;> rfl

@[simp] theorem State.setPort_lanes (p : PortId) (x : Port) : (s.setPort p x).lanes = s.lanes := by cases p <;> rfl

@[simp] theorem State.setPort_arbiter (p : PortId) (x : Port) : (s.setPort p x).arbiter = s.arbiter := by cases p <;> rfl

@[simp] theorem State.setPort_engine (p : PortId) (x : Port) : (s.setPort p x).engine = s.engine := by cases p <;> rfl

@[simp] theorem State.setPort_resetLow (p : PortId) (x : Port) : (s.setPort p x).resetLow = s.resetLow := by cases p <;> rfl

@[simp] theorem State.setPort_pending (p : PortId) (x : Port) : (s.setPort p x).pending = s.pending := by cases p <;> rfl

/-! ## Ports -/

@[simp] theorem State.setPort_port_same (p : PortId) (x : Port) : (s.setPort p x).port p = x := by cases p <;> rfl

@[simp] theorem State.setPort_port_other (p : PortId) (x : Port) : (s.setPort p x).port p.other = s.port p.other := by
  cases p <;> rfl

theorem State.setPort_port_ne (p q : PortId) (x : Port) (h : q ≠ p) : (s.setPort p x).port q = s.port q := by
  cases p <;> cases q <;> first | rfl | exact absurd rfl h

@[simp] theorem State.setPort_self (p : PortId) : s.setPort p (s.port p) = s := by cases p <;> rfl

@[simp] theorem State.setPort_setPort (p : PortId) (x y : Port) : (s.setPort p x).setPort p y = s.setPort p y := by
  cases p <;> rfl

@[simp] theorem State.raise_port (e : Event) (q : PortId) : (s.raise e).port q = (s.port q).raise e := by
  cases q <;> rfl

@[simp] theorem PortId.other_ne (p : PortId) : p.other ≠ p := by cases p <;> decide

@[simp] theorem PortId.other_other (p : PortId) : p.other.other = p := by cases p <;> rfl

theorem PortId.eq_or_other (p q : PortId) : q = p ∨ q = p.other := by cases p <;> cases q <;> simp [PortId.other]

/-! ## A raised event touches only the flags -/

@[simp] theorem Port.raise_cursor (x : Port) (e : Event) : (x.raise e).cursor = x.cursor := rfl

@[simp] theorem Port.raise_lastResult (x : Port) (e : Event) : (x.raise e).lastResult = x.lastResult := rfl

@[simp] theorem Port.raise_mask (x : Port) (e : Event) : (x.raise e).mask = x.mask := rfl

@[simp] theorem Port.raise_phase (x : Port) (e : Event) : (x.raise e).phase = x.phase := rfl

@[simp] theorem Port.raise_flags (x : Port) (e : Event) : (x.raise e).flags = x.flags ||| (1#16 <<< e.bit) := rfl

/-! ## One lane, one volume -/

@[simp] theorem State.setLane_get (i : Fin 4) (x : Lane) : (s.setLane i x).lanes[i] = x := by
  simp [State.setLane]

theorem State.setLane_get_ne (i j : Fin 4) (x : Lane) (h : j ≠ i) : (s.setLane i x).lanes[j] = s.lanes[j] := by
  have h' : (i : Nat) ≠ (j : Nat) := fun e => h (Fin.ext e.symm)
  simpa [State.setLane] using Vector.getElem_set_ne (xs := s.lanes) i.isLt j.isLt h'

@[simp] theorem State.setVolume_get (v : Fin 8) (x : Volume) : (s.setVolume v x).volumes[v] = x := by
  simp [State.setVolume]

theorem State.setVolume_get_ne (v w : Fin 8) (x : Volume) (h : w ≠ v) :
    (s.setVolume v x).volumes[w] = s.volumes[w] := by
  have h' : (v : Nat) ≠ (w : Nat) := fun e => h (Fin.ext e.symm)
  simpa [State.setVolume] using Vector.getElem_set_ne (xs := s.volumes) v.isLt w.isLt h'

@[simp] theorem State.setLane_setLane (i : Fin 4) (x y : Lane) : (s.setLane i x).setLane i y = s.setLane i y := by
  simp [State.setLane]

@[simp] theorem State.setLane_self (i : Fin 4) : s.setLane i s.lanes[i] = s := by
  simp [State.setLane]

end Sys2Proof.Machine
end

