-- ==== Sys2Proof/Laws/Tables.lean ====
section
/-! SUPPORT. What the operations on sparse tables do, and that each keeps the canonical form. -/

namespace Sys2Proof.Machine

variable {α : Type}

/-- The canonical form in words: numbers below the bound, strictly rising. -/
theorem Table.wf_iff (b : Nat) (t : Table α) :
    Table.wf b t = true ↔ (∀ e ∈ t, e.1 < b) ∧ t.Pairwise (fun x y => x.1 < y.1) := by
  induction t with
  | nil => simp [Table.wf]
  | cons e t ih =>
    obtain ⟨j, v⟩ := e
    simp only [Table.wf, Bool.and_eq_true, decide_eq_true_eq, List.all_eq_true, ih, List.mem_cons,
      List.pairwise_cons, forall_eq_or_imp]
    exact ⟨fun ⟨⟨h1, h2⟩, h3, h4⟩ => ⟨⟨h1, h3⟩, fun e he => h2 e he, h4⟩,
      fun ⟨⟨h1, h3⟩, h2, h4⟩ => ⟨⟨h1, fun e he => h2 e he⟩, h3, h4⟩⟩

@[simp] theorem Table.get_nil (k : Nat) : Table.get ([] : Table α) k = none := rfl

theorem Table.get_cons (j : Nat) (v : α) (t : Table α) (k : Nat) :
    Table.get ((j, v) :: t) k = if j = k then some v else Table.get t k := rfl

/-- A record listed under a number is a member. -/
theorem Table.mem_of_get {t : Table α} {k : Nat} {v : α} (h : Table.get t k = some v) : (k, v) ∈ t := by
  induction t with
  | nil => simp at h
  | cons e t ih =>
    obtain ⟨j, w⟩ := e
    rw [Table.get_cons] at h
    split at h
    · rename_i hj; cases h; subst hj; exact List.mem_cons_self
    · exact List.mem_cons_of_mem _ (ih h)

/-- Nothing is listed under a number exactly when no member has it. -/
theorem Table.get_eq_none_iff {t : Table α} {k : Nat} : Table.get t k = none ↔ ∀ e ∈ t, e.1 ≠ k := by
  induction t with
  | nil => simp
  | cons e t ih =>
    obtain ⟨j, w⟩ := e
    rw [Table.get_cons]
    split
    · rename_i hj; simp [hj]
    · rename_i hj; simp only [ih, List.mem_cons, forall_eq_or_imp]; exact ⟨fun h => ⟨hj, h⟩, fun h => h.2⟩

/-- In canonical form a member is what its number reads as. -/
theorem Table.get_of_mem {b : Nat} {t : Table α} (hw : Table.wf b t = true) {k : Nat} {v : α} (h : (k, v) ∈ t) :
    Table.get t k = some v := by
  have hp := ((Table.wf_iff b t).1 hw).2
  clear hw
  induction t with
  | nil => simp at h
  | cons e t ih =>
    obtain ⟨j, w⟩ := e
    rw [List.pairwise_cons] at hp
    rw [Table.get_cons]
    rcases List.mem_cons.1 h with h | h
    · cases h; simp
    · have hj : j ≠ k := Nat.ne_of_lt (hp.1 _ h)
      rw [if_neg hj]; exact ih h hp.2

/-! ## `Table.put` -/

@[simp] theorem Table.get_put_same (t : Table α) (k : Nat) (v : α) : Table.get (Table.put t k v) k = some v := by
  induction t with
  | nil => simp [Table.put, Table.get]
  | cons e t ih =>
    obtain ⟨j, w⟩ := e
    simp only [Table.put]
    split
    · simp [Table.get]
    · split
      · simp [Table.get]
      · rename_i h; simp only [Table.get]; rw [if_neg (fun h' => h h'.symm)]; exact ih

theorem Table.get_put_ne (t : Table α) (k k' : Nat) (v : α) (h : k' ≠ k) :
    Table.get (Table.put t k v) k' = Table.get t k' := by
  have h' : k ≠ k' := fun e => h e.symm
  induction t with
  | nil => simp [Table.put, Table.get, h']
  | cons e t ih =>
    obtain ⟨j, w⟩ := e
    simp only [Table.put]
    split
    · simp [Table.get, h']
    · split
      · rename_i hk; subst hk; simp [Table.get, h']
      · simp only [Table.get]; rw [ih]

/-- A member of the table after a put is the record put or a former member. -/
theorem Table.mem_put {t : Table α} {k : Nat} {v : α} {e : Nat × α} (h : e ∈ Table.put t k v) :
    e = (k, v) ∨ e ∈ t := by
  induction t with
  | nil => simp only [Table.put, List.mem_singleton] at h; exact Or.inl h
  | cons x t ih =>
    obtain ⟨j, w⟩ := x
    simp only [Table.put] at h
    split at h
    · rcases List.mem_cons.1 h with h | h
      · exact Or.inl h
      · exact Or.inr h
    · split at h
      · rcases List.mem_cons.1 h with h | h
        · exact Or.inl h
        · exact Or.inr (List.mem_cons_of_mem _ h)
      · rcases List.mem_cons.1 h with h | h
        · exact Or.inr (h ▸ List.mem_cons_self)
        · exact (ih h).imp id (List.mem_cons_of_mem _)

/-- A put keeps the canonical form. -/
theorem Table.wf_put {b : Nat} {t : Table α} (hw : Table.wf b t = true) {k : Nat} (hk : k < b) (v : α) :
    Table.wf b (Table.put t k v) = true := by
  rw [Table.wf_iff] at hw ⊢
  refine ⟨fun e he => (Table.mem_put he).elim (fun h => h ▸ hk) (hw.1 e), ?_⟩
  have hp := hw.2
  clear hw
  induction t with
  | nil => simp [Table.put]
  | cons x t ih =>
    obtain ⟨j, w⟩ := x
    rw [List.pairwise_cons] at hp
    simp only [Table.put]
    split
    · rename_i hkj
      refine List.pairwise_cons.2 ⟨fun e he => ?_, List.pairwise_cons.2 hp⟩
      rcases List.mem_cons.1 he with he | he
      · subst he; exact hkj
      · exact Nat.lt_trans hkj (hp.1 e he)
    · split
      · rename_i hkj; subst hkj; exact List.pairwise_cons.2 hp
      · rename_i h1 h2
        refine List.pairwise_cons.2 ⟨fun e he => ?_, ih hp.2⟩
        rcases Table.mem_put he with he | he
        · subst he; exact Nat.lt_of_le_of_ne (Nat.le_of_not_lt h1) (fun h => h2 h.symm)
        · exact hp.1 e he

/-- Putting under a number not listed makes the table one longer. -/
theorem Table.length_put_new {t : Table α} {k : Nat} (h : Table.get t k = none) (v : α) :
    (Table.put t k v).length = t.length + 1 := by
  induction t with
  | nil => rfl
  | cons x t ih =>
    obtain ⟨j, w⟩ := x
    rw [Table.get_cons] at h
    split at h
    · cases h
    · rename_i hj
      simp only [Table.put]
      split
      · simp
      · rw [if_neg (fun e => hj e.symm)]; simp [ih h]

/-- Putting under a listed number counts, for any property, the new record in place of the old. -/
theorem Table.countP_put_old {b : Nat} {t : Table α} (hw : Table.wf b t = true) {k : Nat} {w : α}
    (h : Table.get t k = some w) (v : α) (f : Nat × α → Bool) :
    (Table.put t k v).countP f + (if f (k, w) then 1 else 0) = t.countP f + (if f (k, v) then 1 else 0) := by
  have hp := ((Table.wf_iff b t).1 hw).2
  clear hw
  induction t with
  | nil => simp at h
  | cons x t ih =>
    obtain ⟨j, u⟩ := x
    rw [List.pairwise_cons] at hp
    rw [Table.get_cons] at h
    split at h
    · rename_i hj; cases h; subst hj
      simp [Table.put, List.countP_cons]; omega
    · rename_i hj
      have hlt : ¬ k < j := fun hkj => by
        have := hp.1 _ (Table.mem_of_get h)
        exact absurd (Nat.lt_trans hkj this) (Nat.lt_irrefl _)
      simp only [Table.put]
      rw [if_neg hlt, if_neg (fun e => hj e.symm)]
      simp only [List.countP_cons]
      have := ih h hp.2
      omega

/-- Putting under a number not listed adds the new record to any count. -/
theorem Table.countP_put_new {t : Table α} {k : Nat} (h : Table.get t k = none) (v : α) (f : Nat × α → Bool) :
    (Table.put t k v).countP f = t.countP f + (if f (k, v) then 1 else 0) := by
  induction t with
  | nil => simp [Table.put, List.countP_cons]
  | cons x t ih =>
    obtain ⟨j, w⟩ := x
    rw [Table.get_cons] at h
    split at h
    · cases h
    · rename_i hj
      simp only [Table.put]
      split
      · simp only [List.countP_cons]
      · rw [if_neg (fun e => hj e.symm)]; simp only [List.countP_cons, ih h]; omega

/-- Putting under a listed number keeps the length. -/
theorem Table.length_put_old {b : Nat} {t : Table α} (hw : Table.wf b t = true) {k : Nat} {w : α}
    (h : Table.get t k = some w) (v : α) : (Table.put t k v).length = t.length := by
  have := Table.countP_put_old hw h v (fun _ => true)
  simpa [List.countP_true] using this

/-! ## `Table.drop` -/

theorem Table.drop_sublist (t : Table α) (k : Nat) : List.Sublist (Table.drop t k) t := by
  induction t with
  | nil => exact List.Sublist.slnil
  | cons x t ih =>
    obtain ⟨j, w⟩ := x
    simp only [Table.drop]
    split
    · exact List.sublist_cons_self _ _
    · exact ih.cons_cons _

/-- A sublist of a canonical table is canonical. -/
theorem Table.wf_sublist {b : Nat} {t u : Table α} (hw : Table.wf b t = true) (hs : List.Sublist u t) :
    Table.wf b u = true := by
  rw [Table.wf_iff] at hw ⊢
  exact ⟨fun e he => hw.1 e (hs.subset he), hw.2.sublist hs⟩

theorem Table.wf_drop {b : Nat} {t : Table α} (hw : Table.wf b t = true) (k : Nat) :
    Table.wf b (Table.drop t k) = true := Table.wf_sublist hw (Table.drop_sublist t k)

theorem Table.wf_filter {b : Nat} {t : Table α} (hw : Table.wf b t = true) (f : Nat × α → Bool) :
    Table.wf b (t.filter f) = true := Table.wf_sublist hw List.filter_sublist

theorem Table.get_drop_ne (t : Table α) (k k' : Nat) (h : k' ≠ k) :
    Table.get (Table.drop t k) k' = Table.get t k' := by
  induction t with
  | nil => rfl
  | cons x t ih =>
    obtain ⟨j, w⟩ := x
    simp only [Table.drop]
    split
    · rename_i hj; subst hj; rw [Table.get_cons, if_neg (fun e => h e.symm)]
    · simp only [Table.get]; rw [ih]

theorem Table.get_drop_same {b : Nat} {t : Table α} (hw : Table.wf b t = true) (k : Nat) :
    Table.get (Table.drop t k) k = none := by
  have hp := ((Table.wf_iff b t).1 hw).2
  clear hw
  induction t with
  | nil => rfl
  | cons x t ih =>
    obtain ⟨j, w⟩ := x
    rw [List.pairwise_cons] at hp
    simp only [Table.drop]
    split
    · rename_i hj; subst hj
      exact Table.get_eq_none_iff.2 fun e he => Nat.ne_of_gt (hp.1 e he)
    · rename_i hj; simp only [Table.get]; rw [if_neg hj]; exact ih hp.2

/-- Dropping a listed record takes it out of any count. -/
theorem Table.countP_drop {t : Table α} {k : Nat} {w : α} (h : Table.get t k = some w) (f : Nat × α → Bool) :
    (Table.drop t k).countP f + (if f (k, w) then 1 else 0) = t.countP f := by
  induction t with
  | nil => simp at h
  | cons x t ih =>
    obtain ⟨j, u⟩ := x
    rw [Table.get_cons] at h
    split at h
    · rename_i hj; cases h; subst hj; simp [Table.drop, List.countP_cons]
    · rename_i hj
      simp only [Table.drop]
      rw [if_neg hj]
      simp only [List.countP_cons]
      have := ih h
      omega

/-- Dropping a listed record makes the table one shorter. -/
theorem Table.length_drop {t : Table α} {k : Nat} {w : α} (h : Table.get t k = some w) :
    (Table.drop t k).length + 1 = t.length := by
  have := Table.countP_drop h (fun _ => true)
  simpa [List.countP_true] using this

/-! ## How many records a canonical table can list -/

theorem Table.length_le {b : Nat} {t : Table α} (hw : Table.wf b t = true) : t.length ≤ b := by
  obtain ⟨h1, h2⟩ := (Table.wf_iff b t).1 hw
  have hn : (t.map Prod.fst).Nodup := by
    rw [List.nodup_iff_pairwise_ne, List.pairwise_map]
    exact h2.imp fun h => Nat.ne_of_lt h
  have hs : (t.map Prod.fst).toFinset ⊆ Finset.range b := by
    intro x hx
    obtain ⟨e, he, rfl⟩ := List.mem_map.1 (List.mem_toFinset.1 hx)
    exact Finset.mem_range.2 (h1 e he)
  have hc := Finset.card_le_card hs
  rw [List.toFinset_card_of_nodup hn, Finset.card_range, List.length_map] at hc
  exact hc

/-- A number below the bound that is not listed leaves room for one more record. -/
theorem Table.length_lt {b : Nat} {t : Table α} (hw : Table.wf b t = true) {k : Nat} (hk : k < b)
    (h : Table.get t k = none) : t.length < b := by
  cases hv : t with
  | nil => exact Nat.lt_of_le_of_lt (Nat.zero_le _) hk
  | cons e u =>
    have := Table.length_le (Table.wf_put hw hk e.2)
    rw [Table.length_put_new h] at this
    rw [← hv]; omega

/-! ## Searches -/

/-- The lowest number not listed, among `n` numbers from `i` on. -/
theorem Table.lowestFree_some {t : Table α} {n i k : Nat} (h : Table.lowestFree t n i = some k) :
    i ≤ k ∧ k < i + n ∧ Table.get t k = none ∧ ∀ j, i ≤ j → j < k → (Table.get t j).isSome := by
  induction n generalizing i with
  | zero => simp [Table.lowestFree] at h
  | succ n ih =>
    simp only [Table.lowestFree] at h
    split at h
    · rename_i hg; cases h
      exact ⟨Nat.le_refl _, by omega, Option.isNone_iff_eq_none.1 hg, fun j h1 h2 => by omega⟩
    · rename_i hg
      obtain ⟨h1, h2, h3, h4⟩ := ih h
      refine ⟨by omega, by omega, h3, fun j hj hk => ?_⟩
      by_cases hji : j = i
      · subst hji; cases hx : Table.get t j with
        | none => simp [hx] at hg
        | some _ => rfl
      · exact h4 j (by omega) hk

/-- No number is free: every one of them is listed. -/
theorem Table.lowestFree_none {t : Table α} {n i : Nat} (h : Table.lowestFree t n i = none) :
    ∀ j, i ≤ j → j < i + n → (Table.get t j).isSome := by
  induction n generalizing i with
  | zero => intro j h1 h2; omega
  | succ n ih =>
    simp only [Table.lowestFree] at h
    split at h
    · cases h
    · rename_i hg
      intro j hj hk
      by_cases hji : j = i
      · subst hji; cases hx : Table.get t j with
        | none => simp [hx] at hg
        | some _ => rfl
      · exact ih h j (by omega) (by omega)

/-- A record found by a search satisfies the property and is listed. -/
theorem Table.search_some {f : α → Bool} {t : Table α} {k : Nat} {v : α} (h : Table.search f t = some (k, v)) :
    f v = true ∧ (k, v) ∈ t := by
  induction t with
  | nil => simp [Table.search] at h
  | cons x t ih =>
    obtain ⟨j, w⟩ := x
    simp only [Table.search] at h
    split at h
    · rename_i hf; cases h; exact ⟨hf, List.mem_cons_self⟩
    · exact ⟨(ih h).1, List.mem_cons_of_mem _ (ih h).2⟩

/-- A search finds nothing exactly when no listed record satisfies the property. -/
theorem Table.search_none {f : α → Bool} {t : Table α} : Table.search f t = none ↔ ∀ e ∈ t, f e.2 = false := by
  induction t with
  | nil => simp [Table.search]
  | cons x t ih =>
    obtain ⟨j, w⟩ := x
    simp only [Table.search]
    split
    · rename_i hf; simp [hf]
    · rename_i hf; simp only [ih, List.mem_cons, forall_eq_or_imp]
      exact ⟨fun h => ⟨by simpa using hf, h⟩, fun h => h.2⟩

end Sys2Proof.Machine
end

