-- ==== Sys2Proof/Laws/Engine.lean ====
section
/-! SUPPORT. What the arbiter's, the tables' and the engine's shared operations can do. -/

namespace Sys2Proof.Machine

/-! ## Finding records -/

theorem State.findEntry_some {s : State} {k : SectorKey} {i : Nat} {e : Entry} (h : s.findEntry k = some (i, e)) :
    e.key = k ∧ (i, e) ∈ s.entries := by
  obtain ⟨h1, h2⟩ := Table.search_some h
  exact ⟨by simpa using h1, h2⟩

theorem State.findEntry_none {s : State} {k : SectorKey} : s.findEntry k = none ↔ ∀ e ∈ s.entries, e.2.key ≠ k := by
  unfold State.findEntry
  rw [Table.search_none]
  simp

theorem State.findTrack_some {s : State} {k : TrackKey} {j : Nat} {t : Track} (h : s.findTrack k = some (j, t)) :
    t.key = k ∧ (j, t) ∈ s.tracks := by
  obtain ⟨h1, h2⟩ := Table.search_some h
  exact ⟨by simpa using h1, h2⟩

theorem State.findTrack_none {s : State} {k : TrackKey} : s.findTrack k = none ↔ ∀ t ∈ s.tracks, t.2.key ≠ k := by
  unfold State.findTrack
  rw [Table.search_none]
  simp

/-- With distinct keys the entry of a key is the one that is found. -/
theorem State.findEntry_of_mem {s : State} {i : Nat} {e : Entry} (hk : s.KeysDistinct) (h : (i, e) ∈ s.entries) :
    s.findEntry e.key = some (i, e) := by
  cases hf : s.findEntry e.key with
  | none => exact absurd rfl (State.findEntry_none.1 hf (i, e) h)
  | some x =>
    obtain ⟨h1, h2⟩ := State.findEntry_some (i := x.1) (e := x.2) hf
    have := List.inj_on_of_nodup_map hk.1 h2 h h1
    rw [← this]

/-- With distinct keys the track record of a key is the one that is found. -/
theorem State.findTrack_of_mem {s : State} {j : Nat} {t : Track} (hk : s.KeysDistinct) (h : (j, t) ∈ s.tracks) :
    s.findTrack t.key = some (j, t) := by
  cases hf : s.findTrack t.key with
  | none => exact absurd rfl (State.findTrack_none.1 hf (j, t) h)
  | some x =>
    obtain ⟨h1, h2⟩ := State.findTrack_some (j := x.1) (t := x.2) hf
    have := List.inj_on_of_nodup_map hk.2 h2 h h1
    rw [← this]

/-! ## Track records and status -/

/-- Storing a track record with its counts changed: its done flag and the volume's tracks-done count follow, and no more
than TRACK_DONE is raised. -/
theorem State.noteTrack_cases (s : State) (j : Nat) (t : Track) :
    let v := s.volumes[t.key.volume]
    (s.noteTrack j t = s.setTrack j t ∧ (t.done = true ∨ t.settled + t.released < v.sectorsPerTrack))
      ∨ (t.done = false ∧ v.sectorsPerTrack ≤ t.settled + t.released
        ∧ s.noteTrack j t =
            ((s.setTrack j { t with done := true }).setVolume t.key.volume
              { v with tracksDone := v.tracksDone + 1 }).raise .trackDone) := by
  dsimp only
  unfold State.noteTrack
  dsimp only
  split
  · rename_i h
    simp only [Bool.and_eq_true, Bool.not_eq_true', decide_eq_true_eq] at h
    exact .inr ⟨h.1, h.2, rfl⟩
  · rename_i h
    refine .inl ⟨rfl, ?_⟩
    simp only [Bool.and_eq_true, Bool.not_eq_true', decide_eq_true_eq, not_and, not_le] at h
    cases ht : t.done
    · exact .inr (h ht)
    · exact .inl rfl

/-- A change of status touches neither the entries nor candidate memory nor the engine. -/
theorem State.noteStatus_frame (s : State) (k : SectorKey) (l : Fin 4) (old new : Status) :
    let t := s.noteStatus k l old new
    t.entries = s.entries ∧ t.slots = s.slots ∧ t.engine = s.engine ∧ t.freeEntries = s.freeEntries
      ∧ t.pending = s.pending ∧ t.arbiter = s.arbiter ∧ t.settings = s.settings ∧ t.profiles = s.profiles := by
  dsimp only
  unfold State.noteStatus
  split
  · simp
  · split
    · unfold State.noteSettled
      dsimp only
      split
      · unfold State.noteTrack
        dsimp only
        split <;> simp
      · simp
    · simp
    · simp

/-! ## The arbiter -/

/-- An arbitration's winner has a non-empty queue. -/
theorem State.winner_some {s : State} {l : Fin 4} (h : s.winner = some l) : (s.lanes[l]).queue ≠ [] := by
  have := List.find?_some h
  simpa using this

/-- There is no winner exactly while every lane of the order has an empty queue. -/
theorem State.winner_none {s : State} :
    s.winner = none ↔
      ∀ l ∈ (if s.settings.rotating = true then s.arbiter.order else [0, 1, 2, 3]), (s.lanes[l]).queue = [] := by
  unfold State.winner
  rw [List.find?_eq_none]
  simp

/-- All that a grant can be: none, or the head of a queue handed to the engine for classification. -/
theorem State.grantOne_cases (s : State) :
    s.grantOne = s
      ∨ ∃ l arb a rest, s.engine.busy = false ∧ s.burst = some (l, arb) ∧ (s.lanes[l]).queue = a :: rest
          ∧ s.grantOne =
              State.receive { s.setLane l { s.lanes[l] with queue := rest } with arbiter := arb.afterGrant rest.length }
                a := by
  unfold State.grantOne
  split
  · exact .inl rfl
  · rename_i hb
    split
    · exact .inl rfl
    · rename_i l arb hbu
      split
      · exact .inl rfl
      · rename_i a rest hq
        exact .inr ⟨l, arb, a, rest, by simpa using hb, hbu, hq, rfl⟩

/-- All that the classification of a granted attempt can do. -/
theorem State.receive_cases (s : State) (a : Attempt) :
    (s.isReleased a.key = true ∧ s.receive a = s.discardSurplus a.key.track.volume none)
      ∨ (s.isReleased a.key = false
        ∧ ((∃ i e, s.findEntry a.key = some (i, e)
              ∧ ((s.receive a = s.discardSurplus a.key.track.volume (some (i, e))
                    ∧ (e.status = .settled ∨ e.status = .conflict))
                ∨ (s.receive a = s.discardMismatch i e ∧ ¬ (e.status = .settled ∨ e.status = .conflict)
                    ∧ (a.dataLength ≠ e.dataLength ∨ a.deleted ≠ e.deleted))
                ∨ (s.receive a = s.startMerge i e a ∧ ¬ (e.status = .settled ∨ e.status = .conflict)
                    ∧ a.dataLength = e.dataLength ∧ a.deleted = e.deleted)))
          ∨ (s.findEntry a.key = none ∧ s.receive a = s.accommodate a))) := by
  unfold State.receive
  cases hr : s.isReleased a.key
  · refine .inr ⟨rfl, ?_⟩
    simp only [Bool.false_eq_true, if_false]
    cases hf : s.findEntry a.key with
    | none => exact .inr ⟨rfl, rfl⟩
    | some x =>
      obtain ⟨i, e⟩ := x
      refine .inl ⟨i, e, rfl, ?_⟩
      dsimp only
      split
      · rename_i h; exact .inl ⟨rfl, h⟩
      · rename_i h
        split
        · rename_i h'; exact .inr (.inl ⟨rfl, h, h'⟩)
        · rename_i h'
          rw [not_or, not_not, not_not] at h'
          exact .inr (.inr ⟨rfl, h, h'.1, h'.2⟩)
  · exact .inl ⟨rfl, by simp⟩

/-! ## Candidate lists -/

theorem placeCandidate_perm (c : Candidate) (l : List Candidate) : (placeCandidate c l).Perm (c :: l) := by
  induction l with
  | nil => exact List.Perm.refl _
  | cons x t ih =>
    unfold placeCandidate
    split
    · exact List.Perm.refl _
    · exact (List.Perm.cons x ih).trans (List.Perm.swap c x t)

@[simp] theorem placeCandidate_length (c : Candidate) (l : List Candidate) :
    (placeCandidate c l).length = l.length + 1 := by
  rw [(placeCandidate_perm c l).length_eq]; rfl

/-- In a list in order of weight, the new candidate stands behind those of at least its weight and ahead of the rest. -/
theorem placeCandidate_eq {c : Candidate} {l : List Candidate} (h : l.Pairwise fun a b => b.weight ≤ a.weight) :
    placeCandidate c l =
      (l.filter fun x => decide (c.weight ≤ x.weight)) ++ c :: l.filter fun x => decide (x.weight < c.weight) := by
  induction l with
  | nil => rfl
  | cons x t ih =>
    rw [List.pairwise_cons] at h
    unfold placeCandidate
    split
    · rename_i hx
      have h1 : ∀ y ∈ t, y.weight < c.weight := fun y hy => lt_of_le_of_lt (h.1 y hy) hx
      have e1 : t.filter (fun y => decide (c.weight ≤ y.weight)) = [] := by
        rw [List.filter_eq_nil_iff]; intro y hy; simpa using h1 y hy
      have e2 : t.filter (fun y => decide (y.weight < c.weight)) = t := by
        rw [List.filter_eq_self]; intro y hy; simpa using h1 y hy
      rw [List.filter_cons_of_neg (by simpa using hx), List.filter_cons_of_pos (by simpa using hx), e1, e2]
      rfl
    · rename_i hx
      rw [List.filter_cons_of_pos (by simpa using hx), List.filter_cons_of_neg (by simpa using hx), ih h.2]
      rfl

/-! ## The merge -/

@[simp] theorem mergeRange_length (weight : Nat → Nat) (lo hi pos : Nat) (lists : List (List Candidate))
    (bytes : List Byte) (confs : List Nat) :
    (mergeRange weight lo hi pos lists bytes confs).length = lists.length := by
  induction lists generalizing pos bytes confs with
  | nil => cases bytes <;> cases confs <;> rfl
  | cons l ls ih =>
    cases bytes with
    | nil => rfl
    | cons b bs =>
      cases confs with
      | nil => rfl
      | cons c cs => simp [mergeRange, ih]

/-- Each position in the range is updated by its own byte and weight, and every other position is left alone. -/
theorem mergeRange_get (weight : Nat → Nat) (lo hi pos : Nat) (lists : List (List Candidate)) (bytes : List Byte)
    (confs : List Nat) (k : Nat) (hb : k < bytes.length) (hc : k < confs.length) :
    (mergeRange weight lo hi pos lists bytes confs)[k]? =
      if lo ≤ pos + k ∧ pos + k < hi then
        lists[k]?.map (updateList (bytes.getD k 0) (weight (confs.getD k 0)))
      else lists[k]? := by
  induction lists generalizing pos bytes confs k with
  | nil => cases bytes <;> cases confs <;> simp [mergeRange]
  | cons l ls ih =>
    cases bytes with
    | nil => simp at hb
    | cons b bs =>
      cases confs with
      | nil => simp at hc
      | cons c cs =>
        cases k with
        | zero =>
          simp only [mergeRange, List.getElem?_cons_zero, Nat.add_zero, List.getD_cons_zero]
          split <;> rfl
        | succ k =>
          have := ih (pos + 1) bs cs k (by simpa using hb) (by simpa using hc)
          simp only [mergeRange, List.getElem?_cons_succ, List.getD_cons_succ]
          rw [this, show pos + 1 + k = pos + (k + 1) by omega]

/-- All that a stretch of the merge can do: the slot's lists, and how far the merge has come. -/
theorem State.advanceMerge_frame (s : State) (h : Hand) (upTo : Nat) :
    s.advanceMerge h upTo =
      { s with
        slots := (s.advanceMerge h upTo).slots
        engine := { s.engine with written := (s.advanceMerge h upTo).engine.written } }
      ∧ s.engine.written ≤ (s.advanceMerge h upTo).engine.written := by
  unfold State.advanceMerge
  split
  · exact ⟨rfl, Nat.le_refl _⟩
  · exact ⟨rfl, Nat.le_max_left _ _⟩

/-! ## The vote -/

@[simp] theorem votedImage_length (lists : List (List Candidate)) : (votedImage lists).length = lists.length := by
  simp [votedImage]

theorem blankCount_eq_zero {lists : List (List Candidate)} : blankCount lists = 0 ↔ ∀ l ∈ lists, l ≠ [] := by
  unfold blankCount
  rw [List.length_eq_zero_iff, List.filter_eq_nil_iff]
  simp

theorem insertContested_perm (m pos : Nat) (l : List (Nat × Nat)) : (insertContested m pos l).Perm ((m, pos) :: l) := by
  induction l with
  | nil => exact List.Perm.refl _
  | cons x t ih =>
    unfold insertContested
    split
    · exact List.Perm.refl _
    · exact (List.Perm.cons x ih).trans (List.Perm.swap _ x t)

/-- A trial changes no image's length. -/
@[simp] theorem trialImage_length (lists : List (List Candidate)) (ks : List Nat) (t : Nat) (image : List Byte) :
    (trialImage lists ks t image).length = image.length := by
  induction ks generalizing t image with
  | nil => rfl
  | cons k ks ih =>
    unfold trialImage
    rw [ih]
    split <;> simp

end Sys2Proof.Machine
end

