-- ==== Sys2Proof/Laws/Ports.lean ====
section
/-! SUPPORT. What taking a command, writing a window byte, and the number helpers behind them can do: one lemma for
each shared operation. -/

namespace Sys2Proof.Machine

/-! ## Numbers -/

/-- A number in range is found as its Fin. -/
theorem finOf_eq {k n : Nat} (i : Fin k) (h : n = i.val) : finOf k n = some i := by
  subst h; simp [finOf]

theorem finOf_none {k n : Nat} (h : k ≤ n) : finOf k n = none := by
  simp [finOf]; omega

/-- A Fin found is the number itself. -/
theorem finOf_some {k n : Nat} {i : Fin k} (h : finOf k n = some i) : n = i.val := by
  unfold finOf at h; split at h
  · cases h; rfl
  · cases h

/-- A clamp is a maximum of a minimum. -/
theorem clampNat_eq {lo hi v : Nat} (h : lo ≤ hi) : clampNat lo hi v = max lo (min hi v) := by
  unfold clampNat; split <;> [skip; split] <;> omega

theorem clampNat_range {lo hi : Nat} (h : lo ≤ hi) (v : Nat) : lo ≤ clampNat lo hi v ∧ clampNat lo hi v ≤ hi := by
  rw [clampNat_eq h]; omega

/-- A saturating increase never lowers a count and never passes its top. -/
theorem satInc_spec (top n : Nat) : n ≤ satInc top n ∧ satInc top n ≤ n + 1 ∧ (n ≤ top → satInc top n ≤ top) := by
  unfold satInc; split <;> omega

theorem satAdd_spec (top n k : Nat) :
    n ≤ satAdd top n k ∧ satAdd top n k ≤ n + k ∧ (n ≤ top → satAdd top n k = min top (n + k)) := by
  unfold satAdd; split <;> omega

@[simp] theorem bytesBE_length (n v : Nat) : (bytesBE n v).length = n := by
  induction n generalizing v with
  | zero => rfl
  | succ n ih => simp [bytesBE, ih]

/-! ## Taking a command -/

theorem State.awaits_of_ready {s : State} {p : PortId} (h : s.ready p) : (s.port p).phase.awaitsCommand = true := by
  obtain ⟨b, h⟩ := h; simp [h, Phase.awaitsCommand]

theorem State.ready_iff {s : State} {p : PortId} : s.ready p ↔ (s.port p).phase.awaitsCommand = true := by
  refine ⟨State.awaits_of_ready, fun h => ?_⟩
  unfold State.ready
  cases hp : (s.port p).phase <;> simp_all [Phase.awaitsCommand]

/-- A command taken by a port with an open transaction answers with its reply. -/
theorem State.onCommand_answers {s t : State} {p : PortId} (h : s.ready p) (f : State → Reply) {r : ResultCode}
    {bytes : List Byte} (hf : f s = ⟨r, bytes, t⟩) : s.onCommand p f = t.answered p r bytes := by
  unfold State.onCommand
  rw [if_pos (State.awaits_of_ready h), hf]
  simp [State.answered, Reply.response, ResultCode.byte]

/-- A port that awaits no command takes none. -/
theorem State.onCommand_unready {s : State} {p : PortId} (h : ¬ s.ready p) (f : State → Reply) :
    s.onCommand p f = s := by
  unfold State.onCommand
  rw [if_neg (fun hc => h (State.ready_iff.2 hc))]

/-- All that taking a command can do. -/
theorem State.onCommand_cases (s : State) (p : PortId) (f : State → Reply) :
    s.onCommand p f = s ∨ (s.ready p ∧ s.onCommand p f = (f s).state.answered p (f s).code (f s).bytes) := by
  by_cases h : s.ready p
  · exact .inr ⟨h, State.onCommand_answers h f rfl⟩
  · exact .inl (State.onCommand_unready h f)

/-! ## An answer's frame -/

@[simp] theorem State.answered_pending (s : State) (p : PortId) (r : ResultCode) (bytes : List Byte) :
    (s.answered p r bytes).pending = s.pending := by simp [State.answered]

@[simp] theorem State.answered_lanes (s : State) (p : PortId) (r : ResultCode) (bytes : List Byte) :
    (s.answered p r bytes).lanes = s.lanes := by simp [State.answered]

@[simp] theorem State.answered_entries (s : State) (p : PortId) (r : ResultCode) (bytes : List Byte) :
    (s.answered p r bytes).entries = s.entries := by simp [State.answered]

@[simp] theorem State.answered_tracks (s : State) (p : PortId) (r : ResultCode) (bytes : List Byte) :
    (s.answered p r bytes).tracks = s.tracks := by simp [State.answered]

@[simp] theorem State.answered_slots (s : State) (p : PortId) (r : ResultCode) (bytes : List Byte) :
    (s.answered p r bytes).slots = s.slots := by simp [State.answered]

@[simp] theorem State.answered_volumes (s : State) (p : PortId) (r : ResultCode) (bytes : List Byte) :
    (s.answered p r bytes).volumes = s.volumes := by simp [State.answered]

@[simp] theorem State.answered_engine (s : State) (p : PortId) (r : ResultCode) (bytes : List Byte) :
    (s.answered p r bytes).engine = s.engine := by simp [State.answered]

@[simp] theorem State.answered_arbiter (s : State) (p : PortId) (r : ResultCode) (bytes : List Byte) :
    (s.answered p r bytes).arbiter = s.arbiter := by simp [State.answered]

@[simp] theorem State.answered_settings (s : State) (p : PortId) (r : ResultCode) (bytes : List Byte) :
    (s.answered p r bytes).settings = s.settings := by simp [State.answered]

@[simp] theorem State.answered_freeEntries (s : State) (p : PortId) (r : ResultCode) (bytes : List Byte) :
    (s.answered p r bytes).freeEntries = s.freeEntries := by simp [State.answered]

/-! ## Writing through the window -/

/-- A written byte that finds its field: the field takes it and the cursor moves on. -/
theorem State.onWindowWrite_at {s t : State} {p : PortId} {out : List Byte} {space index offset : Nat}
    (h : s.writingAt p out space index offset) (f : Nat → Nat → Nat → Option (State × ResultCode)) {r : ResultCode}
    (hf : f space index offset = some (t, r)) (hp : t.port p = s.port p) :
    s.onWindowWrite p f = t.wroteByte p out r := by
  obtain ⟨h1, h2⟩ := h
  simp [State.onWindowWrite, h1, h2, Phase.isWriting, hf, State.wroteByte, Port.windowStep, Port.advance, hp,
    Phase.shiftOut, ResultCode.note]

/-- All that a written window byte can do. -/
theorem State.onWindowWrite_cases (s : State) (p : PortId) (f : Nat → Nat → Nat → Option (State × ResultCode)) :
    s.onWindowWrite p f = s
      ∨ ∃ out space index offset t r, s.writingAt p out space index offset
          ∧ f space index offset = some (t, r)
          ∧ s.onWindowWrite p f = t.setPort p ((t.port p).windowStep 0 r) := by
  unfold State.onWindowWrite
  split
  · rename_i space index offset hw hc
    cases hf : f space index offset with
    | none => exact .inl rfl
    | some x =>
      cases hp : (s.port p).phase <;> rw [hp] at hw <;> simp only [Phase.isWriting, Bool.false_eq_true] at hw
      exact .inr ⟨_, space, index, offset, x.1, x.2, ⟨hp, hc⟩, hf, rfl⟩
  · exact .inl rfl

/-- The cursor's move, on a byte that is the last neither of its record nor of its space, in its record's last byte, and
in the space's last byte. -/
theorem Cursor.next_cases (space index offset : Nat) :
    (offset + 1 < spaceSize space → (Cursor.point space index offset).next = .point space index (offset + 1))
      ∧ (spaceSize space ≤ offset + 1 → index + 1 < spaceRecords space →
          (Cursor.point space index offset).next = .point space (index + 1) 0)
      ∧ (spaceSize space ≤ offset + 1 → spaceRecords space ≤ index + 1 →
          (Cursor.point space index offset).next = .endOf space) := by
  refine ⟨fun h => ?_, fun h1 h2 => ?_, fun h1 h2 => ?_⟩ <;> simp only [Cursor.next]
  · rw [if_pos h]
  · rw [if_neg (by omega), if_pos h2]
  · rw [if_neg (by omega), if_neg (by omega)]

/-! ## Reset -/

/-- A reset leaves candidate memory, the queue of waiting commands, the RESET_N pin and the free-value counts. -/
theorem State.resetBlocks_frame (s : State) :
    s.resetBlocks.slots = s.slots ∧ s.resetBlocks.pending = s.pending ∧ s.resetBlocks.resetLow = s.resetLow
      ∧ s.resetBlocks.engine.freeCount = s.engine.freeCount ∧ s.resetBlocks.entries = []
      ∧ s.resetBlocks.tracks = [] ∧ s.resetBlocks.freeEntries = 4096 := ⟨rfl, rfl, rfl, rfl, rfl, rfl, rfl⟩

end Sys2Proof.Machine
end

