-- ==== Sys2Proof/Laws/Lanes.lean ====
section
/-! SUPPORT. What the lane's shared operations can do: time, edges, requests, anchoring and the way of an interval's
cells. -/

namespace Sys2Proof.Machine

/-! ## Time -/

theorem Lane.watched_iff (l : Lane) :
    l.watched = true ↔ l.state = .armed ∨ l.state = .capturing ∨ l.state = .finishing := by
  cases h : l.state <;> simp [Lane.watched, h]

theorem State.laneProfile_active {s : State} {l : Lane} {d : Descriptor} (h : l.active = some d) :
    s.laneProfile l = s.profileOf d.volume := by
  unfold State.laneProfile; rw [h]

/-- Time at a lane whose timers do not run out changes its index timer and its open interval. -/
theorem State.lane_elapse (s : State) (i : Fin 4) (n dt : Nat) :
    (s.lanes[i]).elapse n dt = s.laneAfter i n dt := by
  unfold Lane.elapse State.laneAfter State.ticksAfter
  by_cases hw : (s.lanes[i]).watched = true
  · rw [if_pos hw, if_pos ((Lane.watched_iff _).1 hw)]
  · rw [if_neg hw, if_neg (fun h => hw ((Lane.watched_iff _).2 h))]

@[simp] theorem State.laneAfter_state (s : State) (i : Fin 4) (n dt : Nat) :
    (s.laneAfter i n dt).state = (s.lanes[i]).state := rfl

@[simp] theorem State.laneAfter_active (s : State) (i : Fin 4) (n dt : Nat) :
    (s.laneAfter i n dt).active = (s.lanes[i]).active := rfl

@[simp] theorem State.laneAfter_queue (s : State) (i : Fin 4) (n dt : Nat) :
    (s.laneAfter i n dt).queue = (s.lanes[i]).queue := rfl

@[simp] theorem State.laneAfter_framer (s : State) (i : Fin 4) (n dt : Nat) :
    (s.laneAfter i n dt).framer = (s.lanes[i]).framer := rfl

@[simp] theorem State.laneAfter_schedule (s : State) (i : Fin 4) (n dt : Nat) :
    (s.laneAfter i n dt).schedule = (s.lanes[i]).schedule := rfl

@[simp] theorem State.laneAfter_timerTicks (s : State) (i : Fin 4) (n dt : Nat) :
    (s.laneAfter i n dt).timing.timerTicks = s.ticksAfter i n dt := rfl

@[simp] theorem State.laneAfter_edgeSeen (s : State) (i : Fin 4) (n dt : Nat) :
    (s.laneAfter i n dt).timing.edgeSeen = (s.lanes[i]).timing.edgeSeen := rfl

/-- Ticks at one lane leave the other lanes as they stood. -/
theorem State.elapse_get_ne (s : State) (i j : Fin 4) (dt : Nat) (h : j ≠ i) :
    (s.elapse i dt).lanes[j] = s.lanes[j] := by
  unfold State.elapse; rw [State.setLane_get_ne _ _ _ _ h]

/-! ## Timers -/

/-- The index timer expires in ARMED and CAPTURING only, at 2N. -/
theorem Lane.expiryIn_some {n b : Nat} {l : Lane} :
    l.expiryIn n = some b ↔ (l.state = .armed ∨ l.state = .capturing) ∧ b = 160 * n - l.timing.timerTicks := by
  unfold Lane.expiryIn
  cases l.state <;> simp [eq_comm]

/-- Which timer runs out before the last of `dt` ticks. -/
theorem Lane.overdue_some {n dt t : Nat} {w : LaneTimer} {l : Lane} (h : l.overdue n dt = some (t, w)) :
    t < dt ∧ ((w = .interval ∧ l.timeoutIn = some t ∧ ∀ b, l.expiryIn n = some b → t ≤ b)
      ∨ (w = .index ∧ l.expiryIn n = some t ∧ ∀ a, l.timeoutIn = some a → t < a)) := by
  unfold Lane.overdue at h
  split at h
  · rename_i a b ha hb
    split at h
    · split at h
      · cases h; exact ⟨‹_›, .inl ⟨rfl, ha, fun c hc => by rw [hb] at hc; cases hc; assumption⟩⟩
      · cases h
    · split at h
      · cases h; exact ⟨‹_›, .inr ⟨rfl, hb, fun c hc => by rw [ha] at hc; cases hc; omega⟩⟩
      · cases h
  · rename_i a ha hb
    split at h
    · cases h; exact ⟨‹_›, .inl ⟨rfl, ha, fun c hc => by rw [hb] at hc; cases hc⟩⟩
    · cases h
  · rename_i b ha hb
    split at h
    · cases h; exact ⟨‹_›, .inr ⟨rfl, hb, fun c hc => by rw [ha] at hc; cases hc⟩⟩
    · cases h
  · cases h

theorem Lane.overdue_none_of {n dt : Nat} {l : Lane} (h1 : ∀ a, l.timeoutIn = some a → dt ≤ a)
    (h2 : ∀ b, l.expiryIn n = some b → dt ≤ b) : l.overdue n dt = none := by
  cases h : l.overdue n dt with
  | none => rfl
  | some x =>
    obtain ⟨t, w⟩ := x
    obtain ⟨ht, ⟨-, h, -⟩ | ⟨-, h, -⟩⟩ := Lane.overdue_some h
    · have := h1 _ h; omega
    · have := h2 _ h; omega

theorem Lane.overdue_interval {n dt t : Nat} {l : Lane} (ht : t < dt) (h1 : l.timeoutIn = some t)
    (h2 : ∀ b, l.expiryIn n = some b → t ≤ b) : l.overdue n dt = some (t, .interval) := by
  unfold Lane.overdue
  rw [h1]
  cases hb : l.expiryIn n with
  | none => simp [ht]
  | some b => simp [ht, h2 b hb]

theorem Lane.overdue_index {n dt t : Nat} {l : Lane} (ht : t < dt) (h1 : l.expiryIn n = some t)
    (h2 : ∀ a, l.timeoutIn = some a → t < a) : l.overdue n dt = some (t, .index) := by
  unfold Lane.overdue
  rw [h1]
  cases ha : l.timeoutIn with
  | none => simp [ht]
  | some a => have := h2 a ha; simp [ht, show ¬ a ≤ t by omega]

/-- Before a timer runs out none is overdue. -/
theorem State.onTime_overdue {s : State} {i : Fin 4} {n dt : Nat} (h : s.onTime i n dt) :
    (s.lanes[i]).overdue n dt = none := by
  refine Lane.overdue_none_of (fun a ha => ?_) fun b hb => ?_
  · unfold Lane.timeoutIn at ha
    obtain ⟨k, hk, rfl⟩ := Option.map_eq_some_iff.1 ha
    have := h.1 k hk
    omega
  · obtain ⟨hs, rfl⟩ := Lane.expiryIn_some.1 hb
    have := h.2 hs
    omega

/-- With no timer overdue, time only passes. -/
theorem Lane.passTime_none {env : LaneEnv} {d : Descriptor} {l : Lane} {dt : Nat}
    (h : l.overdue env.profile.revPeriod dt = none) (k : Nat) :
    l.passTime env d k dt = l.elapse env.profile.revPeriod dt := by
  cases k <;> simp [Lane.passTime, h]

/-- Before a timer of lane `i` runs out, time changes that lane only, and of it only the index timer and the open
interval. -/
theorem State.elapse_onTime {s : State} {i : Fin 4} {dt : Nat}
    (h : s.onTime i (s.laneProfile s.lanes[i]).revPeriod dt ∨ (s.lanes[i]).active = none) :
    s.elapse i dt = s.setLane i (s.laneAfter i (s.laneProfile s.lanes[i]).revPeriod dt) := by
  unfold State.elapse
  congr 1
  cases ha : (s.lanes[i]).active with
  | none => exact State.lane_elapse _ _ _ _
  | some d =>
    rcases h with h | h
    · rw [State.laneProfile_active ha] at h ⊢
      exact (Lane.passTime_none (State.onTime_overdue h) _).trans (State.lane_elapse _ _ _ _)
    · rw [ha] at h; cases h

/-! ## Edges -/

/-- Which of the four kinds an edge is. -/
theorem Timing.classify_spec (n : Nat) (t : Timing) :
    (t.classify n = .first ↔ t.edgeSeen = false)
      ∧ (t.classify n = .glitch ↔ t.edgeSeen = true ∧ t.timerTicks / 80 < n / 2)
      ∧ (t.classify n = .fault ↔
          t.edgeSeen = true ∧ n / 2 ≤ t.timerTicks / 80 ∧ 3 * n / 2 < t.timerTicks / 80)
      ∧ (t.classify n = .good ↔
          t.edgeSeen = true ∧ n / 2 ≤ t.timerTicks / 80 ∧ t.timerTicks / 80 ≤ 3 * n / 2) := by
  unfold Timing.classify Timing.indexTimer glitchBound faultBound
  cases ht : t.edgeSeen
  · simp
  · by_cases h1 : t.timerTicks / 80 < n / 2
    · simp [h1]
    · by_cases h2 : 3 * n / 2 < t.timerTicks / 80 <;> simp [h1, h2] <;> try omega

/-- At a watched lane an edge that comes before a timer runs out is taken once its time has passed. -/
theorem execIndexEdge_watching {s : State} {i : Fin 4} {d : Descriptor} {dt : Nat} (h : s.watching i d)
    (ht : s.onTime i (s.profileOf d.volume).revPeriod dt) :
    execIndexEdge i dt s =
      .next (s.setLane i
        ((s.laneAfter i (s.profileOf d.volume).revPeriod dt).indexEdge (s.profileOf d.volume) s.presets d)) := by
  unfold execIndexEdge
  congr 1
  rw [State.elapse_onTime (.inl (by rw [State.laneProfile_active h.1]; exact ht)), State.laneProfile_active h.1]
  dsimp only
  rw [State.setLane_get]
  have hw : (s.laneAfter i (s.profileOf d.volume).revPeriod dt).watched = true := by
    rw [Lane.watched_iff]; exact h.2
  rw [hw, State.laneAfter_active, h.1]
  simp only
  rw [State.setLane_setLane]
  rfl

/-- An edge that is no glitch is accepted. -/
theorem Lane.indexEdge_accepted {p : Profile} {presets : Vector Preset 16} {d : Descriptor} {l : Lane}
    (h : l.timing.classify p.revPeriod ≠ .glitch) :
    l.indexEdge p presets d = l.acceptEdge p presets d (l.timing.classify p.revPeriod) := by
  unfold Lane.indexEdge
  generalize l.timing.classify p.revPeriod = k at *
  cases k <;> first | rfl | exact absurd rfl h

/-- Rounding with a half upward is the floor of the quotient plus a half. -/
theorem roundHalfUp_eq (a n : Nat) : (2 * a + n) / (2 * n) = ⌊(a : ℚ) / (n : ℚ) + 1 / 2⌋₊ := by
  rcases Nat.eq_zero_or_pos n with rfl | h
  · norm_num
  · rw [← Nat.floor_div_eq_div (K := ℚ)]
    congr 1
    push_cast
    field_simp

/-! ## Requests, activation -/

/-- A finish request changes the framer, and with it only the open interval and the lane's state. -/
theorem Lane.requestFinish_frame (l : Lane) :
    l.requestFinish =
      { l with
        framer := l.framer.finish, interval := l.requestFinish.interval, state := l.requestFinish.state } := by
  unfold Lane.requestFinish Lane.settleFraming
  split <;> rfl

/-- Settling changes only the open interval and the lane's state. -/
theorem Lane.settleFraming_frame (l : Lane) :
    l.settleFraming = { l with interval := l.settleFraming.interval, state := l.settleFraming.state } := by
  unfold Lane.settleFraming
  split <;> rfl

/-- Latching preset `n` changes the separator's copy of the preset only. -/
theorem Lane.latchPreset_eq {presets : Vector Preset 16} {d : Descriptor} {l : Lane} {n : Fin 16}
    (h : d.decidePreset l.schedule = n) :
    l.latchPreset presets d =
      { l with
        separator :=
          { ccur := l.separator.ccur, presetInForce := n, gain := (presets[n]).gain
            tolerance := (presets[n]).tolerance, bias := (presets[n]).bias } } := by
  subst h; rfl

/-- Activation leaves the lane as `State.activatedLane` describes it. -/
theorem State.activate_eq (s : State) (i : Fin 4) (d : Descriptor) :
    s.activate i d = s.setLane i (s.activatedLane s.lanes[i] d) := by
  unfold State.activate
  congr 1
  generalize s.lanes[i] = l
  have hn : ∀ x : ScheduleState, d.decidePreset { x with slotPosition := 0, revInSlot := 0 } =
      d.preset.getD x.active.slots[0] := by
    intro x
    unfold Descriptor.decidePreset
    cases d.preset <;> simp
  unfold Lane.activate State.activatedLane
  by_cases hp : l.schedule.pending = true
  · simp only [hp, if_true]
    rw [Lane.latchPreset_eq (hn l.schedule.adopt)]
    rfl
  · rw [Bool.not_eq_true] at hp
    simp only [hp, Bool.false_eq_true, if_false]
    rw [Lane.latchPreset_eq (hn { l.schedule with pending := false })]
    rfl

/-- The end of a burst: no owner, nothing served, and under a rotating burst the owner at the end of the order. -/
theorem Arbiter.endBurst_owned {a : Arbiter} {l : Fin 4} (h : a.owner = some l) :
    a.endBurst =
      { a with
        owner := none, served := 0
        order := if a.rotating = true then a.order.filter (· != l) ++ [l] else a.order } := by
  unfold Arbiter.endBurst
  rw [h]

/-! ## Framing and anchoring -/

/-- All that anchoring a pair can do: the counts, the queue's tail, and, at a seek mismatch, state, cause and the finish
request on its way. -/
theorem Lane.anchor_frame (env : LaneEnv) (d : Descriptor) (x : FieldPair) (l : Lane) :
    (l.anchor env d x) =
        { l with
          counts := (l.anchor env d x).counts, queue := (l.anchor env d x).queue
          state := (l.anchor env d x).state, cause := (l.anchor env d x).cause
          request := (l.anchor env d x).request, freeCount := (l.anchor env d x).freeCount }
      ∧ l.queue <+: (l.anchor env d x).queue
      ∧ ((l.anchor env d x).state = l.state
        ∨ (l.state = .capturing ∧ (l.anchor env d x).state = .finishing)) := by
  unfold Lane.anchor Lane.seekMismatch Lane.complete Lane.offer Lane.recordCause
  split
  · split
    · dsimp only
      split
      · rename_i hc
        exact ⟨rfl, List.prefix_refl _, .inr ⟨hc.1, rfl⟩⟩
      · exact ⟨rfl, List.prefix_refl _, .inl rfl⟩
    · split
      · exact ⟨rfl, List.prefix_refl _, .inl rfl⟩
      · split
        · exact ⟨rfl, List.prefix_append _ _, .inl rfl⟩
        · exact ⟨rfl, List.prefix_refl _, .inl rfl⟩
  · split
    · split
      · exact ⟨rfl, List.prefix_append _ _, .inl rfl⟩
      · exact ⟨rfl, List.prefix_refl _, .inl rfl⟩
    · exact ⟨rfl, List.prefix_refl _, .inl rfl⟩

/-- The index timer of the lane can expire (R29). -/
abbrev Lane.timed (l : Lane) : Prop := l.state = .armed ∨ l.state = .capturing

/-- What the framer takes at a lane, apart from the framer, the counts, the queue, the state, the cause and the request on
its way, leaves the lane as it stood; the queue only grows, an open interval stays or is closed, and a lane whose index
timer cannot expire stays one. -/
def Lane.SameOutside (l m : Lane) : Prop :=
  m = { l with
        framer := m.framer, counts := m.counts, queue := m.queue, state := m.state, cause := m.cause
        interval := m.interval, request := m.request, freeCount := m.freeCount }
    ∧ l.queue <+: m.queue ∧ (m.interval = l.interval ∨ m.interval = none) ∧ (m.timed → l.timed)

theorem Lane.SameOutside.refl (l : Lane) : l.SameOutside l := ⟨rfl, List.prefix_refl _, .inl rfl, id⟩

theorem Lane.SameOutside.trans {l m k : Lane} (h1 : l.SameOutside m) (h2 : m.SameOutside k) : l.SameOutside k := by
  obtain ⟨h1, q1, i1, t1⟩ := h1
  obtain ⟨h2, q2, i2, t2⟩ := h2
  refine ⟨?_, q1.trans q2, ?_, fun h => t1 (t2 h)⟩
  · rw [h2, h1]
  · rcases i2 with i2 | i2
    · rw [i2]; exact i1
    · exact .inr i2

theorem Lane.takeCell_frame (env : LaneEnv) (d : Descriptor) (c : RecordedCell) (l : Lane) :
    l.SameOutside (l.takeCell env d c) := by
  unfold Lane.takeCell
  dsimp only
  split
  · rename_i x _
    obtain ⟨h, q, t⟩ := Lane.anchor_frame env d x
      { l with
        framer := (l.framer.takeCell env.profile c l.counts).framer
        counts := (l.framer.takeCell env.profile c l.counts).counts }
    refine ⟨?_, q, .inl ?_, fun ht => ?_⟩
    · rw [h]
    · rw [h]
    · rcases t with t | ⟨-, t⟩
      · unfold Lane.timed at *; rwa [t] at ht
      · unfold Lane.timed at ht; rw [t] at ht; rcases ht with h | h <;> cases h
  · exact ⟨rfl, List.prefix_refl _, .inl rfl, id⟩

theorem Lane.settleFraming_same (l : Lane) : l.SameOutside l.settleFraming := by
  unfold Lane.settleFraming
  split
  · refine ⟨rfl, List.prefix_refl _, .inr rfl, fun h => ?_⟩
    by_cases hs : l.state = .finishing
    · unfold Lane.timed at h; rw [if_pos hs] at h; rcases h with h | h <;> cases h
    · unfold Lane.timed at h; rwa [if_neg hs] at h
  · exact Lane.SameOutside.refl l

theorem Lane.requestFinish_same (l : Lane) : l.SameOutside l.requestFinish :=
  Lane.SameOutside.trans (m := { l with framer := l.framer.finish }) ⟨rfl, List.prefix_refl _, .inl rfl, id⟩
    (Lane.settleFraming_same _)

theorem Lane.requestNears_same (l : Lane) : l.SameOutside l.requestNears := by
  unfold Lane.requestNears
  split <;> exact ⟨rfl, List.prefix_refl _, .inl rfl, id⟩

theorem Lane.requestArrives_same (l : Lane) : l.SameOutside l.requestArrives := by
  unfold Lane.requestArrives
  split
  · exact Lane.SameOutside.trans (m := { l with request := none }) ⟨rfl, List.prefix_refl _, .inl rfl, id⟩
      (Lane.requestFinish_same _)
  · exact Lane.SameOutside.refl l

/-- Without a request on its way, none comes nearer and none arrives. -/
theorem Lane.request_none {l : Lane} (h : l.request = none) : l.requestNears = l ∧ l.requestArrives = l := by
  unfold Lane.requestNears Lane.requestArrives
  simp [h]

/-- A request still on its way outside a field does not arrive. -/
theorem Lane.requestArrives_waits {l : Lane} {n : Nat} (h : l.request = some (n + 1)) (hf : l.framer.insideField = false) :
    l.requestArrives = l := by
  unfold Lane.requestArrives
  simp [h, hf]

/-- Taking an interval's cells leaves timing, separator, schedule, descriptors, revolutions and outcome alone, and the
queue only grows. -/
theorem Lane.takeCells_frame (env : LaneEnv) (d : Descriptor) (cells : List RecordedCell) (l : Lane) :
    l.SameOutside (Lane.takeCells env d cells l) := by
  unfold Lane.takeCells
  induction cells generalizing l with
  | nil => exact Lane.SameOutside.refl l
  | cons c cs ih =>
    exact ((l.requestNears_same.trans (Lane.takeCell_frame env d c _)).trans (Lane.requestArrives_same _)).trans
      (ih _)

/-- All that closing an interval can do: apart from Ccur, what the framer can do, and the next interval opens or none
does. -/
theorem Lane.closeInterval_frame (env : LaneEnv) (d : Descriptor) (i : Nat) (l : Lane) :
    ∃ c, Lane.SameOutside { l with interval := some 0, separator := { l.separator with ccur := c } }
      (l.closeInterval env d i) := by
  have start (m : Lane) (f : Framer) (n : Counts) : m.SameOutside { m with framer := f, counts := n } :=
    ⟨rfl, List.prefix_refl _, .inl rfl, id⟩
  unfold Lane.closeInterval Lane.deliver
  dsimp only
  split
  · split
    · exact ⟨l.timing.ceff, Lane.SameOutside.trans (start _ _ _) (Lane.settleFraming_same _)⟩
    · exact ⟨(l.separator.compute env.profile.encoding l.timing.ceff i).ccur,
        Lane.SameOutside.trans (start _ _ _) (Lane.settleFraming_same _)⟩
  · exact ⟨(l.separator.compute env.profile.encoding l.timing.ceff i).ccur,
      Lane.SameOutside.trans (Lane.SameOutside.trans (start _ _ _) (Lane.takeCells_frame _ _ _ _))
        (Lane.settleFraming_same _)⟩

/-- All that the NO_INDEX expiry can do at a lane whose index timer can expire: cause, state and framer move, and the
interval is closed or stays. -/
theorem Lane.noIndex_frame (l : Lane) (h : l.timed) : l.SameOutside l.noIndex ∧ ¬ l.noIndex.timed := by
  unfold Lane.noIndex
  rcases h with h | h <;> rw [h] <;> dsimp only
  · exact ⟨⟨rfl, List.prefix_refl _, .inl rfl, fun _ => .inl h⟩, by simp [Lane.timed]⟩
  · have hs := Lane.requestFinish_same { l.recordCause .noIndex with state := .finishing }
    have hn : ¬ (l.endCapture .noIndex).timed := fun ht => by
      have := hs.2.2.2 ht
      simp [Lane.timed] at this
    refine ⟨Lane.SameOutside.trans (m := { l.recordCause .noIndex with state := .finishing })
      ⟨rfl, List.prefix_refl _, .inl rfl, fun _ => .inr h⟩ hs, hn⟩

/-! ## The points at which timers run out -/

/-- A bound on the points at which a timer runs out within `dt` ticks. -/
def Lane.points (l : Lane) (dt : Nat) : Nat :=
  (if l.timed then 1 else 0) + match l.interval with | none => 0 | some k => (dt + min k 8192) / 8192

theorem Lane.points_le (l : Lane) (dt : Nat) : l.points dt ≤ pointsWithin dt := by
  unfold Lane.points pointsWithin
  split <;> split <;> omega

/-- At a point where a timer runs out one point fewer is left. -/
theorem Lane.points_runOut {env : LaneEnv} {d : Descriptor} {l : Lane} {dt t : Nat} {w : LaneTimer}
    (h : l.overdue env.profile.revPeriod dt = some (t, w)) :
    ((l.elapse env.profile.revPeriod t).runOut env d w).points (dt - t) + 1 ≤ l.points dt := by
  obtain ⟨ht, ⟨rfl, h1, -⟩ | ⟨rfl, h1, h2⟩⟩ := Lane.overdue_some h
  · obtain ⟨k, hk, rfl⟩ := Option.map_eq_some_iff.1 h1
    obtain ⟨c, -, -, hi, hs⟩ := Lane.closeInterval_frame env d 8192 (l.elapse env.profile.revPeriod (8192 - k))
    change Lane.points (Lane.closeInterval env d 8192 _) _ + 1 ≤ _
    generalize Lane.closeInterval env d 8192 _ = m at hi hs
    have hs : m.timed → l.timed := hs
    unfold Lane.points
    rw [hk]
    have hm : (if m.timed then 1 else 0) ≤ if l.timed then 1 else 0 := by
      split
      · rw [if_pos (hs ‹_›)]
      · omega
    rcases hi with hi | hi <;> rw [hi] <;> dsimp only <;> omega
  · obtain ⟨hl, rfl⟩ := Lane.expiryIn_some.1 h1
    obtain ⟨⟨-, -, hi, -⟩, hn⟩ := Lane.noIndex_frame (l.elapse env.profile.revPeriod _) hl
    change Lane.points (Lane.noIndex _) _ + 1 ≤ _
    generalize Lane.noIndex _ = m at hi hn
    unfold Lane.points
    rw [if_neg hn, if_pos hl]
    have hi : m.interval = l.interval.map (fun k => min 8192 (k + _)) ∨ m.interval = none := hi
    cases hk : l.interval with
    | none => rw [hk] at hi; rcases hi with hi | hi <;> rw [hi] <;> simp
    | some k =>
      have := h2 _ (by unfold Lane.timeoutIn; rw [hk]; rfl)
      rw [hk] at hi
      rcases hi with hi | hi <;> rw [hi] <;> simp only [Option.map_some] <;> omega

/-- Any bound on the points at which timers run out gives the same. -/
theorem Lane.passTime_bound {env : LaneEnv} {d : Descriptor} (k j : Nat) {dt : Nat} {l : Lane}
    (hk : l.points dt ≤ k) (hj : l.points dt ≤ j) : l.passTime env d k dt = l.passTime env d j dt := by
  induction k generalizing j dt l with
  | zero =>
    cases h : l.overdue env.profile.revPeriod dt with
    | none => rw [Lane.passTime_none h, Lane.passTime_none h]
    | some x => have := Lane.points_runOut (d := d) (w := x.2) h; omega
  | succ k ih =>
    cases h : l.overdue env.profile.revPeriod dt with
    | none => rw [Lane.passTime_none h, Lane.passTime_none h]
    | some x =>
      obtain ⟨t, w⟩ := x
      have hp := Lane.points_runOut (d := d) h
      cases j with
      | zero => omega
      | succ j =>
        unfold Lane.passTime
        rw [h]
        exact ih j (by omega) (by omega)

/-- Where a timer runs out, the ticks after that point pass at the lane it leaves. -/
theorem Lane.passTime_some {env : LaneEnv} {d : Descriptor} {l : Lane} {dt t : Nat} {w : LaneTimer}
    (h : l.overdue env.profile.revPeriod dt = some (t, w)) :
    l.passTime env d (pointsWithin dt) dt =
      ((l.elapse env.profile.revPeriod t).runOut env d w).passTime env d (pointsWithin (dt - t)) (dt - t) := by
  have hp := Lane.points_runOut (d := d) h
  have hl := l.points_le dt
  rw [show pointsWithin dt = (pointsWithin dt - 1) + 1 by omega]
  conv_lhs => unfold Lane.passTime
  rw [h]
  exact Lane.passTime_bound _ _ (by omega) (Lane.points_le _ _)

end Sys2Proof.Machine
end

