-- ==== Sys2Proof/Laws/PerInstr.lean ====
section
/-! SUPPORT. The statements made for every command of the block, one lemma for each constructor. -/

namespace Sys2Proof.Laws

/-- R171: the number of argument bytes that follow a command code is fixed by the code. A well-formed command that is
sent as bytes carries exactly the argument bytes that its code asks for. -/
def TransactionBytes.Statement (i : Instr) : Prop :=
  i.wellFormed = true → ∀ (p : PortId) (code : Byte) (args : List Byte),
    i.transaction = some (p, code :: args) → args.length = argumentCount code

/-- A command whose bytes are `code` and `args` makes the statement true when the count fits. -/
theorem transactionBytes_of_bytes {i : Instr} {p : PortId} {code : Byte} {args : List Byte}
    (h : i.transaction = some (p, code :: args)) (hl : args.length = argumentCount code) :
    TransactionBytes.Statement i := by
  intro _ q c as hq
  rw [h] at hq
  cases hq
  exact hl

/-- A command that is not sent as bytes makes the statement true. -/
theorem transactionBytes_of_none {i : Instr} (h : i.transaction = none) : TransactionBytes.Statement i := by
  intro _ q c as hq
  rw [h] at hq
  cases hq

/-- A code outside the command table has no arguments. -/
theorem argumentCount_unlisted {code : Byte} (h : commandCodes.contains code = false) :
    argumentCount code = 0 := by
  simp only [commandCodes, List.contains_eq_mem, decide_eq_false_iff_not, List.mem_cons, not_or] at h
  obtain ⟨-, -, h02, h10, -, -, h20, h21, h30, h31, h40, h41, h42, h48, -, -⟩ := h
  unfold argumentCount
  rw [if_neg h02, if_neg h10, if_neg h20, if_neg h21, if_neg h30, if_neg h31, if_neg h40, if_neg h41, if_neg h42,
    if_neg h48]

theorem TransactionBytes.chipSelectFall (p : PortId) : TransactionBytes.Statement (.chipSelectFall p) :=
  transactionBytes_of_none rfl

theorem TransactionBytes.transactionCut (p : PortId) : TransactionBytes.Statement (.transactionCut p) :=
  transactionBytes_of_none rfl

theorem TransactionBytes.unknownCommand (p : PortId) (code : Byte) :
    TransactionBytes.Statement (.unknownCommand p code) := by
  intro hw q c as hq
  cases hq
  exact (argumentCount_unlisted (by simpa [Instr.wellFormed] using hw)).symm

theorem TransactionBytes.status (p : PortId) : TransactionBytes.Statement (.status p) :=
  transactionBytes_of_bytes rfl rfl

theorem TransactionBytes.readEvents (p : PortId) : TransactionBytes.Statement (.readEvents p) :=
  transactionBytes_of_bytes rfl rfl

theorem TransactionBytes.readEventsClear (p : PortId) : TransactionBytes.Statement (.readEventsClear p) :=
  transactionBytes_of_none rfl

theorem TransactionBytes.setEventMask (p : PortId) (mask : Word) :
    TransactionBytes.Statement (.setEventMask p mask) :=
  transactionBytes_of_bytes rfl rfl

theorem TransactionBytes.setWindow (p : PortId) (space : Byte) (index offset : Word) :
    TransactionBytes.Statement (.setWindow p space index offset) :=
  transactionBytes_of_bytes rfl rfl

theorem TransactionBytes.readWindow (p : PortId) : TransactionBytes.Statement (.readWindow p) :=
  transactionBytes_of_bytes rfl rfl

theorem TransactionBytes.windowByteRead (p : PortId) : TransactionBytes.Statement (.windowByteRead p) :=
  transactionBytes_of_none rfl

theorem TransactionBytes.writeWindow (p : PortId) : TransactionBytes.Statement (.writeWindow p) :=
  transactionBytes_of_bytes rfl rfl

theorem TransactionBytes.settingsWrite (p : PortId) (b : Byte) :
    TransactionBytes.Statement (.settingsWrite p b) :=
  transactionBytes_of_none rfl

theorem TransactionBytes.profileWrite (p : PortId) (b : Byte) :
    TransactionBytes.Statement (.profileWrite p b) :=
  transactionBytes_of_none rfl

theorem TransactionBytes.presetWrite (p : PortId) (b : Byte) : TransactionBytes.Statement (.presetWrite p b) :=
  transactionBytes_of_none rfl

theorem TransactionBytes.scheduleWrite (p : PortId) (b : Byte) :
    TransactionBytes.Statement (.scheduleWrite p b) :=
  transactionBytes_of_none rfl

theorem TransactionBytes.windowByteWrite (p : PortId) (b : Byte) :
    TransactionBytes.Statement (.windowByteWrite p b) :=
  transactionBytes_of_none rfl

theorem TransactionBytes.openVolume (p : PortId) (volume profile : Byte) (cylinders : Word)
    (heads firstSector sectorsPerTrack : Byte) :
    TransactionBytes.Statement (.openVolume p volume profile cylinders heads firstSector sectorsPerTrack) :=
  transactionBytes_of_bytes rfl rfl

theorem TransactionBytes.closeVolume (p : PortId) (volume : Byte) :
    TransactionBytes.Statement (.closeVolume p volume) :=
  transactionBytes_of_bytes rfl rfl

theorem TransactionBytes.postPass (p : PortId) (laneVolume : Byte) (cylinder : Word)
    (head revolutions settle selector : Byte) (cellOverride : Word) :
    TransactionBytes.Statement (.postPass p laneVolume cylinder head revolutions settle selector cellOverride) :=
  transactionBytes_of_bytes rfl rfl

theorem TransactionBytes.abortPass (p : PortId) (lane flags : Byte) :
    TransactionBytes.Statement (.abortPass p lane flags) :=
  transactionBytes_of_bytes rfl rfl

theorem TransactionBytes.locate (p : PortId) (volume : Byte) (cylinder : Word) (head sector : Byte) :
    TransactionBytes.Statement (.locate p volume cylinder head sector) :=
  transactionBytes_of_bytes rfl rfl

theorem TransactionBytes.queryTrack (p : PortId) (volume : Byte) (cylinder : Word) (head : Byte) :
    TransactionBytes.Statement (.queryTrack p volume cylinder head) :=
  transactionBytes_of_bytes rfl rfl

theorem TransactionBytes.nextSettled (p : PortId) (volume : Byte) (fromIndex : Word) :
    TransactionBytes.Statement (.nextSettled p volume fromIndex) :=
  transactionBytes_of_bytes rfl rfl

theorem TransactionBytes.release (p : PortId) (index : Word) :
    TransactionBytes.Statement (.release p index) :=
  transactionBytes_of_bytes rfl rfl

theorem TransactionBytes.resetDevice (p : PortId) : TransactionBytes.Statement (.resetDevice p) :=
  transactionBytes_of_bytes rfl rfl

theorem TransactionBytes.resetAssert : TransactionBytes.Statement .resetAssert :=
  transactionBytes_of_none rfl

theorem TransactionBytes.resetRelease : TransactionBytes.Statement .resetRelease :=
  transactionBytes_of_none rfl

theorem TransactionBytes.indexEdge (lane : Fin 4) (elapsed : Nat) :
    TransactionBytes.Statement (.indexEdge lane elapsed) :=
  transactionBytes_of_none rfl

theorem TransactionBytes.noIndexTimeout (lane : Fin 4) (elapsed : Nat) :
    TransactionBytes.Statement (.noIndexTimeout lane elapsed) :=
  transactionBytes_of_none rfl

theorem TransactionBytes.fluxTransition (lane : Fin 4) (elapsed : Nat) :
    TransactionBytes.Statement (.fluxTransition lane elapsed) :=
  transactionBytes_of_none rfl

theorem TransactionBytes.intervalTimeout (lane : Fin 4) (elapsed : Nat) :
    TransactionBytes.Statement (.intervalTimeout lane elapsed) :=
  transactionBytes_of_none rfl

theorem TransactionBytes.grant : TransactionBytes.Statement .grant :=
  transactionBytes_of_none rfl

theorem TransactionBytes.mergeEnd : TransactionBytes.Statement .mergeEnd :=
  transactionBytes_of_none rfl

theorem TransactionBytes.evaluationCompletion : TransactionBytes.Statement .evaluationCompletion :=
  transactionBytes_of_none rfl

theorem TransactionBytes.passCompletion (lane : Fin 4) : TransactionBytes.Statement (.passCompletion lane) :=
  transactionBytes_of_none rfl

theorem TransactionBytes.dataPhaseEnd (p : PortId) : TransactionBytes.Statement (.dataPhaseEnd p) :=
  transactionBytes_of_none rfl

end Sys2Proof.Laws
end

