-- ==== Sys2Proof/Tests/Slice0.lean ====
section
/-! SUPPORT. Tests: the manual's worked examples, one small step each, and for every statement with hypotheses a
concrete state and operands that meet them. -/

namespace Sys2Proof.Tests

open Sys2Proof.Machine

/-! ## Small states -/

/-- The state an outcome leaves. -/
def after (o : Host.Outcome State Fault Refusal) : State :=
  match o with
  | .next t => t
  | _ => State.reset

/-- `s` with a transaction open on port `p`. -/
def opened (p : PortId) (s : State) : State := s.setPort p { s.port p with phase := .command 0 }

/-- `s` with port `p` in the data phase of WRITE WINDOW at a place. -/
def writing (p : PortId) (space index offset : Nat) (s : State) : State :=
  s.setPort p { s.port p with phase := .writing [], cursor := .point space index offset }

/-- `s` with port `p` in the data phase of READ WINDOW at a cursor. -/
def reading (p : PortId) (cursor : Cursor) (s : State) : State :=
  s.setPort p { s.port p with phase := .reading [], cursor := cursor }

/-- The volume of example 4.6: 80 cylinders, 2 heads, sectors 1 to 9. -/
def volume : Volume := { Volume.reset with isOpen := true, cylinders := 80, heads := 2, firstSector := 1, sectorsPerTrack := 9 }

/-- The part after reset with volume 1 opened as in example 4.6. -/
def mounted : State := State.reset.setVolume 1 volume

/-- The first descriptor of example 4.6. -/
def descriptor : Descriptor :=
  { volume := 1, cylinder := 12, head := 1, revolutions := 2, settle := 1, preset := some 5, cellOverride := none }

/-- A lane working that descriptor, in a given state, its index timer at `period` index microseconds. -/
def laneIn (state : LaneState) (seen : Bool) (period : Nat) : Lane :=
  { Lane.reset with
    state := state
    active := some descriptor
    framer := if state = .capturing then Framer.reset.start else Framer.reset
    interval := if state = .capturing then some 0 else none
    timing := { Lane.reset.timing with edgeSeen := seen, timerTicks := 80 * period, cauto := 2560, ceff := 2560 }
    separator := ⟨2560, 5, 2, 1, 0⟩ }

/-- `mounted` with lane 0 so. -/
def working (state : LaneState) (seen : Bool) (period : Nat) : State := mounted.setLane 0 (laneIn state seen period)

/-- The reset profile. -/
abbrev profile : Profile := Profile.reset

/-- Cells from a row of bits, all of confidence `q`. -/
def cellsOf (q : Nat) (bits : List Nat) : List RecordedCell := bits.map fun b => ⟨b == 1, q⟩

/-- An attempt of lane 0 for sector 4 of that track, with one data byte. -/
def attempt : Attempt := ⟨0, ⟨⟨1, 12, 1⟩, 4⟩, 1, false, false, [0x4E, 0x00, 0x01], [12, 0, 9]⟩

/-- Its entry, newly allocated, and its track's record. -/
def entry : Entry := Entry.fresh attempt 2

/-- See `entry`. -/
def track : Track := { Track.fresh ⟨1, 12, 1⟩ with live := 1 }

/-- `mounted` with lane 0 in DRAINING or capturing, a queue, and one entry with its slot and track record. -/
def holding (state : LaneState) (queue : List Attempt) (e : Entry) (x : Slot) : State :=
  { (mounted.setVolume 1 { volume with live := 1 }).setLane 0 { laneIn state true 0 with queue := queue } with
    entries := [(0, e)], tracks := [(0, track)], slots := [(0, x)], freeEntries := 4095 }

/-- The engine merging that attempt into that entry, another attempt waiting. -/
def merging : State :=
  { holding .capturing [attempt] entry (Slot.fresh 1) with
    engine := { Engine.reset with phase := .merge, hand := some ⟨attempt, 0⟩ } }

/-- The entry once it is not busy, with a given status. -/
def rested (status : Status) : Entry := { entry with busy := false, status := status }

/-- The state a grant is made in: an idle engine, one attempt queued. -/
def granting (status : Status) : State := holding .capturing [attempt] (rested status) (Slot.fresh 1)

/-! ## Commands and bytes -/

/-- The smoke test of well-formedness: a code of the command table is no unknown command. -/
theorem test_wellFormed_refuses_known_code : (Instr.unknownCommand .bay 0x48).wellFormed = false := by decide

theorem test_wellFormed_accepts_unlisted_code : (Instr.unknownCommand .bay 0x7F).wellFormed = true := by decide

/-- R174: RELEASE 48h and SET WINDOW 10h, high bytes first. -/
theorem test_decode_release : decodeTransaction .station [0x48, 0x02, 0x39] = some (.release .station 0x0239) := by
  decide

theorem test_decode_setWindow :
    decodeTransaction .bay [0x10, 0x07, 0x00, 0x03, 0x00, 0x26] = some (.setWindow .bay 7 3 38) := by decide

/-- R174: POST PASS 30h of example 4.6: lane 0 and volume 1 in one byte. -/
theorem test_decode_postPass :
    decodeTransaction .bay [0x30, 0x01, 0x00, 0x0C, 0x01, 0x02, 0x01, 0x05, 0x00, 0x00] =
      some (.postPass .bay 0x01 12 1 2 1 5 0) := by decide

theorem test_decode_incomplete : decodeTransaction .bay [0x48, 0x02] = none := by decide

theorem test_decode_unknown : decodeTransaction .bay [0x7F] = some (.unknownCommand .bay 0x7F) := by decide

/-- The opcode table gives no row any bits. -/
theorem test_decodeTableWord : decodeTableWord 8 0x7E = none := rfl

/-- R20: the two check values and the reset profile's three mark bytes. -/
theorem test_crc_check_FFFF :
    crcRun 0xFFFF [0x31, 0x32, 0x33, 0x34, 0x35, 0x36, 0x37, 0x38, 0x39] = 0x29B1 := by decide +kernel

theorem test_crc_check_0000 :
    crcRun 0x0000 [0x31, 0x32, 0x33, 0x34, 0x35, 0x36, 0x37, 0x38, 0x39] = 0x31C3 := by decide +kernel

theorem test_crc_marks : crcRun 0xFFFF [0xA1, 0xA1, 0xA1] = 0xCDB4 := by decide +kernel

/-- R7: the MFM cells 1001001001010100 are 4Eh, and the reset pattern's are A1h. -/
theorem test_mfm_byte_4E :
    decodeByte .mfm (cellsOf 9 [1, 0, 0, 1, 0, 0, 1, 0, 0, 1, 0, 1, 0, 1, 0, 0]) = ⟨0x4E, 9, 0⟩ := by decide

theorem test_mfm_byte_mark :
    decodeByte .mfm (cellsOf 15 [0, 1, 0, 0, 0, 1, 0, 0, 1, 0, 0, 0, 1, 0, 0, 1]) = ⟨0xA1, 15, 0⟩ := by decide

/-- 1.8: the groups 01010 10101 are A5h, and 01010 11111 decodes as A0h with one code violation. -/
theorem test_gcr_byte_A5 : decodeByte .gcr (cellsOf 7 [0, 1, 0, 1, 0, 1, 0, 1, 0, 1]) = ⟨0xA5, 7, 0⟩ := by decide

theorem test_gcr_violation : decodeByte .gcr (cellsOf 7 [0, 1, 0, 1, 0, 1, 1, 1, 1, 1]) = ⟨0xA0, 0, 1⟩ := by decide

/-- 1.8: under GCR 14 one cells and a zero cell bring the framer to MARK with that zero cell. -/
theorem test_gcr_sync :
    let f := (Framer.takeAll { profile with encoding := .gcr }
      (cellsOf 15 [1, 1, 1, 1, 1, 1, 1, 1, 1, 1, 1, 1, 1, 1, 0]) Framer.reset.start Counts.zero).1
    f.mode = .mark ∧ f.cells = [⟨false, 15⟩] := by decide

/-! ## Timing and separation -/

/-- 2.7: the derivation at one edge, and its two variations. -/
theorem test_cauto_2598 : cautoOfPeriods 2560 200000 [203000, 202600, 203400, 203000] = 2598 := by decide

theorem test_cauto_floor : cautoOfPeriods 2560 200000 [203003, 202600, 203400, 203000] = 2598 := by decide

theorem test_cauto_clamped :
    let t := Timing.recompute profile none ⟨0, true, [220000, 220000, 220000, 220000], 0, 0, 0, 0, false⟩
    t.cauto = 2720 ∧ t.ceff = 2720 ∧ t.speedClamp = true := by decide

/-- 2.8: P = 1800 is a glitch, 203000 good, 312000 a fault. -/
theorem test_classify :
    (laneIn .armed true 1800).timing.classify 200000 = .glitch
      ∧ (laneIn .armed true 203000).timing.classify 200000 = .good
      ∧ (laneIn .armed true 312000).timing.classify 200000 = .fault
      ∧ (laneIn .armed false 1800).timing.classify 200000 = .first := by decide

/-- R24: an edge 79 ticks after a restart finds the timer at 0. -/
theorem test_index_timer : ({ Lane.reset.timing with timerTicks := 79 } : Timing).indexTimer = 0 := by decide

/-- 3.5, intervals 1, 3, 4, 5 and 6. -/
theorem test_separator_interval_1 :
    (Separator.mk 2598 0 2 1 0).compute .mfm 2598 329 = ⟨2, 2, 14, 2602⟩ := by decide

theorem test_separator_interval_3 :
    (Separator.mk 2604 0 2 1 0).compute .mfm 2598 640 = ⟨4, 4, 12, 2599⟩ := by decide

theorem test_separator_interval_4 :
    (Separator.mk 2599 0 2 1 0).compute .mfm 2598 410 = ⟨3, 3, 0, 2548⟩ := by decide

theorem test_separator_interval_5 :
    (Separator.mk 2548 0 2 1 0).compute .mfm 2598 1120 = ⟨7, 4, 0, 2760⟩ := by decide

theorem test_separator_interval_6 :
    (Separator.mk 2760 0 2 1 0).compute .mfm 2598 2400 = ⟨14, 4, 0, 2760⟩ := by decide

/-- 3.5: interval 4 under a bias of +2 and of −2. -/
theorem test_separator_bias : rawCells 410 2599 2 = 2 ∧ rawCells 410 2599 (-2) = 3 := by decide

/-- R40: the floor of a negative bias term. -/
theorem test_separator_bias_floor : ((-1 : Int) * 2598) / 16 = -163 := by decide

/-- 3.9: revolution 2 advances to slot 1, and a pending copy is adopted in place of an advance. -/
theorem test_schedule_advance :
    let x : ScheduleState :=
      ⟨⟨3, 2, (Vector.replicate 16 0).set 1 9⟩, Schedule.reset, false, 0, 1⟩
    (x.stage true true).slotPosition = 1 ∧ (x.stage true true).revInSlot = 0 := by decide

theorem test_schedule_adoption :
    let x : ScheduleState := ⟨⟨3, 2, Vector.replicate 16 0⟩, ⟨2, 1, Vector.replicate 16 7⟩, true, 1, 0⟩
    x.stage true true = ⟨⟨2, 1, Vector.replicate 16 7⟩, ⟨2, 1, Vector.replicate 16 7⟩, false, 0, 0⟩ := by decide

/-! ## Merging and evaluation -/

/-- 7.7: attempts A5 to A10 at position 37, and 7.8: the halving. -/
theorem test_list_A5 :
    updateList 0x0E 7 [⟨0x4E, 26⟩, ⟨0x4F, 9⟩, ⟨0x6E, 5⟩] = [⟨0x4E, 26⟩, ⟨0x4F, 9⟩, ⟨0x0E, 2⟩] := by decide

theorem test_list_A6 :
    updateList 0x4F 23 [⟨0x4E, 26⟩, ⟨0x4F, 9⟩, ⟨0x0E, 2⟩] = [⟨0x4F, 32⟩, ⟨0x4E, 26⟩, ⟨0x0E, 2⟩] := by decide

theorem test_list_A8 : updateList 0x0E 1 [⟨0x4F, 32⟩, ⟨0x4E, 26⟩, ⟨0x59, 1⟩] = [⟨0x4F, 32⟩, ⟨0x4E, 26⟩] := by decide

theorem test_list_A9 : updateList 0x4E 6 [⟨0x4F, 32⟩, ⟨0x4E, 26⟩] = [⟨0x4F, 32⟩, ⟨0x4E, 32⟩] := by decide

theorem test_list_A10 : updateList 0x4E 8 [⟨0x4F, 32⟩, ⟨0x4E, 32⟩] = [⟨0x4E, 40⟩, ⟨0x4F, 32⟩] := by decide

theorem test_list_halving :
    updateList 0x4F 23 [⟨0x4F, 250⟩, ⟨0x4E, 26⟩, ⟨0x11, 1⟩] = [⟨0x4F, 148⟩, ⟨0x4E, 13⟩] := by decide

theorem test_list_absent_full :
    updateList 0x7A 23 [⟨0x4F, 250⟩, ⟨0x4E, 26⟩, ⟨0x11, 1⟩] = [⟨0x4F, 250⟩, ⟨0x4E, 26⟩, ⟨0x7A, 22⟩] := by decide

/-- 7.7: the view of position 37 after A10. -/
theorem test_view_bytes : viewBytes [⟨0x4E, 40⟩, ⟨0x4F, 32⟩] = [0x4E, 0x28, 0x4F, 0x20, 0x00, 0x00] := by decide

/-- 8.7: the order of the contested set, at positions 0 to 3 in place of 12, 40, 97 and 128. -/
theorem test_contested_order :
    contestedSet 6
      [[⟨0x20, 30⟩, ⟨0xA0, 28⟩], [⟨0xE5, 19⟩, ⟨0xE4, 14⟩], [⟨0xD5, 40⟩, ⟨0x55, 40⟩], [⟨0x3B, 22⟩, ⟨0x7B, 20⟩],
        [⟨0x11, 9⟩, ⟨0x12, 2⟩], [⟨0x11, 9⟩]] = [2, 0, 3, 1] := by decide

/-- 8.7: trial 3 changes K[0] and K[1], trial 4 K[2] only. -/
theorem test_trials :
    let lists : List (List Candidate) :=
      [[⟨0x20, 30⟩, ⟨0xA0, 28⟩], [⟨0xE5, 19⟩, ⟨0xE4, 14⟩], [⟨0xD5, 40⟩, ⟨0x55, 40⟩], [⟨0x3B, 22⟩, ⟨0x7B, 20⟩]]
    trialImage lists [2, 0, 3] 3 (votedImage lists) = [0xA0, 0xE5, 0x55, 0x3B]
      ∧ trialImage lists [2, 0, 3] 4 (votedImage lists) = [0x20, 0xE5, 0xD5, 0x7B] := by decide

/-- R129: equal weights of a full list's last candidate cost both; R125: the earlier holder of a weight stands ahead. -/
theorem test_list_tie_order : updateList 0x02 5 [⟨0x01, 5⟩] = [⟨0x01, 5⟩, ⟨0x02, 5⟩] := by decide

/-! ## Steps -/

/-- 10.8: after PASS_DONE of lane 1 and SETTLED, the station's status byte is 80h under a mask of 0010h. -/
theorem test_status_byte :
    ({ State.reset with station := { Port.reset with flags := 0x0012, mask := 0x0010 } }).statusByte .station = 0x80 := by
  decide

/-- 10.8: reading the last byte of space 7 brings the cursor to its end position, where a read gives FFh and RANGE. -/
theorem test_window_end :
    let t := after (exec (.windowByteRead .station) (reading .station (.point 7 3 39) State.reset))
    t.station.cursor = .endOf 7
      ∧ (after (exec (.windowByteRead .station) t)).station.phase = .reading [0, 0xFF]
      ∧ (after (exec (.windowByteRead .station) t)).station.lastResult = .range := by decide

/-- R2: writing 700 into a cell period that holds 6400, high byte first, gives 640 and then 700. -/
theorem test_profile_clamp :
    (({ profile with cellPeriod := 6400 }).write 1 0x02).cellPeriod = 640
      ∧ (({ profile with cellPeriod := 640 }).write 2 0xBC).cellPeriod = 700 := by decide

/-- R49: a bias byte of 80h is stored as FCh. -/
theorem test_preset_bias : (Preset.reset.write 2 0x80).record 0 = [2, 1, 0xFC, 0] := by decide

/-- 4.6: POST PASS on the idle lane 0 gives ARMED with Ceff 2560 and preset 5. -/
theorem test_post_pass :
    let t := after (exec (.postPass .bay 0x01 12 1 2 1 5 0) (opened .bay mounted))
    (t.lanes[0]).state = .armed ∧ (t.lanes[0]).timing.ceff = 2560 ∧ (t.lanes[0]).separator.presetInForce = 5
      ∧ t.bay.lastResult = .ok := by decide

/-- R59: sector geometry is tested after the volume, and the volume before the lane. -/
theorem test_post_pass_refused :
    (after (exec (.postPass .bay 0x02 12 1 2 1 5 0) (opened .bay mounted))).bay.lastResult = .refused := by decide

/-- 2.8: the edge that brings the settle count to settle plus one starts capture. -/
theorem test_capture_starts :
    let l := (after (exec (.indexEdge 0 0) ((working .armed true 203000).setLane 0
      { laneIn .armed true 203000 with timing := { (laneIn .armed true 203000).timing with settleCount := 1 } }))).lanes[0]
    l.state = .capturing ∧ l.timing.cauto = 2598 ∧ l.separator.ccur = 2598 ∧ l.framer.mode = .hunt := by decide

/-- R29: 2N index microseconds after the last edge the lane in CAPTURING ends with NO_INDEX. -/
theorem test_no_index :
    let l := (after (exec (.noIndexTimeout 0 0) (working .capturing true 400000))).lanes[0]
    l.cause = some .noIndex ∧ l.state = .draining ∧ l.framer.mode = .stopped ∧ l.interval = none := by decide

/-- R69: a drained pass with cause NO_INDEX raises PASS_DONE and LANE_FAULT. -/
theorem test_pass_completion :
    let t := after (exec (.passCompletion 0) (mounted.setLane 0 { laneIn .draining true 0 with cause := some .noIndex }))
    t.bay.flags = 0x0201 ∧ (t.lanes[0]).state = .idle ∧ (t.lanes[0]).outcome = some .noIndex := by decide

/-- 7.9: B2 becomes the witness, B4 confirms it, and B5 differs from it while it is strong. -/
theorem test_witness :
    let b2 := entry.meetWitness none [1, 2, 3]
    let b4 := b2.meetWitness (some [1, 2, 3]) [1, 2, 3]
    let b5 := b4.meetWitness (some [1, 2, 3]) [1, 9, 3]
    b2.origin = .attempt ∧ b2.confirmations = 1 ∧ b4.confirmations = 2 ∧ b5.confirmations = 2 ∧ b5.conflicts = 1
      ∧ b5.conflictRecorded = true := by decide

/-- 8.8: C2 forms a weak witness below quorum, C3 confirms it once, C4 adds nothing. -/
theorem test_vote :
    let c2 := ({ entry with merged := 2 }).formWitness 3 [1, 2, 3]
    let c3 := ({ entry with merged := 3 }).weighVote 3 [1, 2, 3] [1, 2, 3] true
    let c4 := ({ entry with merged := 4, confirmations := 1, voteConfirm := true }).weighVote 3 [1, 2, 3] [1, 2, 3] true
    c2.origin = .vote ∧ c2.confirmations = 0 ∧ c2.status 2 = .provisional ∧ c3.confirmations = 1
      ∧ c3.voteConfirm = true ∧ c4.confirmations = 1 := by decide

/-- 5.5, steps 12 and 13: a burst ends at its latched burst, and at an empty queue; the owner goes to the end. -/
theorem test_burst_ends_at_burst :
    ((Arbiter.mk [3, 2, 0, 1] (some 3) 3 true 4).afterGrant 3) = ⟨[2, 0, 1, 3], none, 0, true, 4⟩ := by decide

theorem test_burst_ends_at_empty_queue :
    ((Arbiter.mk [2, 0, 1, 3] (some 0) 0 true 4).afterGrant 0) = ⟨[2, 1, 3, 0], none, 0, true, 4⟩ := by decide

/-- 6.7, step 5 to 6: an attempt for a SETTLED entry is surplus, counted at the entry and at the volume. -/
theorem test_grant_surplus :
    let t := after (exec .grant (granting .settled))
    (t.volumes[1]).surplus = 1 ∧ (t.entries.map fun e => e.2.surplus) = [1] ∧ (t.lanes[0]).queue = []
      ∧ t.engine.phase = .idle := by decide

/-- 6.7: a granted attempt for an OPEN entry makes it busy. -/
theorem test_grant_merges :
    let t := after (exec .grant (granting .opened))
    t.engine.phase = .merge ∧ (t.entries.map fun e => e.2.busy) = [true] := by decide

/-- 7.7, A1 at a blank position: a merge of weights 12, 0 and 9 fills two of three positions. -/
theorem test_merge_end :
    let t := after (exec .mergeEnd merging)
    (t.slots.map fun x => x.2.lists) = [[[⟨0x4E, 12⟩], [], [⟨0x01, 9⟩]]] ∧ (t.entries.map fun e => e.2.merged) = [1]
      ∧ t.engine.phase = .evaluation := by decide

/-- 9.6, step 1: the release of a SETTLED entry answers 03h and moves its sector to the released set. -/
theorem test_release :
    let t := after (exec (.release .station 0) (opened .station (granting .settled)))
    t.station.phase = .response [0, 0, 3] none ∧ t.entries = [] ∧ t.freeEntries = 4096
      ∧ (t.tracks.map fun r => r.2.releasedSet) = [8#64] ∧ (t.volumes[1]).released = 1 := by decide

/-- 6.7: LOCATE and QUERY TRACK on a track with one entry of status PROVISIONAL, sector 4 of 1 to 9. -/
theorem test_queries :
    (after (exec (.locate .bay 1 12 1 4) (opened .bay (granting .provisional)))).bay.phase =
        .response [0, 0, 0, 0, 2] none
      ∧ (after (exec (.queryTrack .bay 1 12 1) (opened .bay (granting .provisional)))).bay.phase =
          .response [0, 0, 9, 0, 0, 0, 2, 0, 0, 0, 0, 0] none := by decide

/-- 4.6, the second variation: ABORT PASS with both flags removes the queued attempt and counts it. -/
theorem test_abort :
    let t := after (exec (.abortPass .station 0 3) (opened .station (granting .opened)))
    (t.lanes[0]).queue = [] ∧ (t.lanes[0]).counts.queueDiscards = 1 ∧ (t.lanes[0]).cause = some .aborted
      ∧ (t.lanes[0]).state = .draining := by decide

/-- R185: RESET DEVICE frees the volume and leaves the issuing port's result OK. -/
theorem test_reset_device :
    let t := after (exec (.resetDevice .bay) (opened .bay mounted))
    (t.volumes[1]).isOpen = false ∧ t.bay.phase = .response [] none ∧ (t.lanes[0]).state = .idle := by decide

/-- 4.6: pair B is kept, C is a seek mismatch, D is unanchored, E is out of geometry. -/
theorem test_anchor :
    let env : LaneEnv := ⟨0, profile, volume, 10, 2⟩
    let pair (cylinder sector : Nat) (good : Bool) (low : Nat) : FieldPair :=
      ⟨⟨cylinder, 1, sector, 2, false, good, 512, [], [13, 14, low, 12]⟩, false, false, [], []⟩
    let l := laneIn .capturing true 0
    (l.anchor env descriptor (pair 12 7 false 11)).queue.length = 1
      ∧ (l.anchor env descriptor (pair 11 5 true 15)).counts.seekMismatches = 1
      ∧ (l.anchor env descriptor (pair 12 3 false 6)).counts.unanchored = 1
      ∧ (l.anchor env descriptor (pair 12 10 true 15)).counts.outOfGeometry = 1 := by decide

/-! ## Hypotheses met

For each statement with hypotheses, and for each of its clauses, a state and operands that meet them. -/

theorem opened_ready (p : PortId) (s : State) : (opened p s).ready p := ⟨0, by simp [opened]⟩

/-- A one-row table lists only its row. -/
theorem get_one {α : Type} {x y : α} {i : Nat} (h : Table.get [(0, x)] i = some y) : i = 0 ∧ y = x := by
  unfold Table.get at h
  split at h
  · rename_i hi; exact ⟨hi.symm, (Option.some.inj h).symm⟩
  · cases h

/-! ### Ports and window -/

/-- A byte of a response, and one past its end. -/
theorem hyp_shiftsOut : 3 < ([0, 0, 0, 1] : List Byte).length ∧ ([0, 0, 0, 1] : List Byte).length ≤ 4 := by decide

theorem hyp_ChipSelectFall :
    (State.reset.port .bay).phase = .closed ∧ State.reset.resetLow = false
      ∧ ({ State.reset with resetLow := true }.port .bay).phase = .closed := ⟨rfl, rfl, rfl⟩

theorem hyp_ready : (opened .bay State.reset).ready .bay ∧ (opened .station mounted).ready .station :=
  ⟨opened_ready _ _, opened_ready _ _⟩

theorem hyp_ChipSelectRise :
    (0x7F : Byte) ∉ ([0x00, 0x01, 0x02, 0x10, 0x11, 0x12, 0x20, 0x21, 0x30, 0x31, 0x40, 0x41, 0x42, 0x48, 0x7E] :
        List Byte)
      ∧ ((reading .bay (.point 0 0 0) State.reset).port .bay).phase = .reading []
      ∧ ((State.reset.setPort .bay { Port.reset with phase := .abandoned }).port .bay).phase = .abandoned := by
  decide

/-- Bytes that spell a command in the data phase of a response, and of WRITE WINDOW. -/
theorem hyp_ChipSelectRise_dataPhase :
    (Instr.resetDevice .bay).transaction = some (.bay, [0x7E])
      ∧ ¬ (State.reset.answered .bay .ok [0x01]).ready .bay
      ∧ ¬ (State.reset.setPort .bay { Port.reset with phase := .writing [] }).ready .bay :=
  ⟨rfl, by rintro ⟨_, ⟨⟩⟩, by rintro ⟨_, ⟨⟩⟩⟩

theorem hyp_ReadEventsClear :
    ((State.reset.setPort .bay { Port.reset with flags := 0x3, phase := .response [0, 0, 0, 1] (some 1) }).port
      .bay).phase = .response [0, 0, 0, 1] (some 1) := rfl

/-- The last byte of a record, of a space, and the end position; the engine merges entry 0 and the read is of entry 1. -/
theorem hyp_WindowReadsFollowTheCursor :
    ((reading .bay (.point 6 1 6155) merging).port .bay).cursor = .point 6 1 6155
      ∧ (∀ h, merging.engine.hand = some h → merging.engine.phase = .merge → 6 = 6 → 1 ≠ h.entry)
      ∧ ((reading .bay (.point 8 7 19) State.reset).port .bay).cursor = .point 8 7 19
      ∧ ((reading .bay (.endOf 8) State.reset).port .bay).cursor = .endOf 8 := by
  refine ⟨rfl, fun h hh _ _ => ?_, rfl, rfl⟩
  cases hh
  decide

theorem merging_whole : merging.RecordsWhole := by
  refine ⟨?_, ?_, ?_⟩
  · intro i
    fin_cases i
    · refine ⟨⟨rfl, ?_, ?_⟩, ?_⟩
      · rintro (h | ⟨h, -⟩) <;> cases h
      · intro h; cases h
      · intro a ha
        change a ∈ [attempt] at ha
        rw [List.mem_singleton] at ha
        subst ha
        exact ⟨rfl, rfl⟩
    all_goals
      refine ⟨⟨rfl, ?_, ?_⟩, ?_⟩
      · rintro (h | ⟨h, -⟩) <;> cases h
      · intro h; cases h
      · intro a ha; cases ha
  · intro i e h
    obtain ⟨rfl, rfl⟩ := get_one h
    exact ⟨Slot.fresh 1, rfl, rfl, rfl, by intro w hw; cases hw⟩
  · intro h hh
    cases hh
    refine ⟨⟨rfl, rfl⟩, fun e he => ?_⟩
    obtain ⟨-, rfl⟩ := get_one he
    rfl

/-- The first byte of a view, and the one after its last position. -/
theorem hyp_ABusyViewShowsOldOrMergedLists :
    (reading .bay (.point 6 0 18) merging).RecordsWhole
      ∧ ((reading .bay (.point 6 0 18) merging).port .bay).phase = .reading []
      ∧ (reading .bay (.point 6 0 18) merging).engine.phase = .merge
      ∧ (reading .bay (.point 6 0 18) merging).engine.hand = some ⟨attempt, 0⟩
      ∧ Table.get (reading .bay (.point 6 0 18) merging).entries 0 = some entry
      ∧ Table.get (reading .bay (.point 6 0 18) merging).slots 0 = some (Slot.fresh 1)
      ∧ ((reading .bay (.point 6 0 18) merging).port .bay).cursor = .point 6 0 18 :=
  ⟨merging_whole, rfl, rfl, rfl, rfl, rfl, rfl⟩

theorem hyp_WindowShowsEntriesAndTheirSlots :
    Table.get merging.entries 0 = some entry ∧ Table.get merging.slots 0 = some (Slot.fresh 1)
      ∧ Table.get merging.entries 4095 = none := ⟨rfl, rfl, rfl⟩

theorem hyp_WindowShowsTheOtherRecords :
    Table.get merging.tracks 0 = some track ∧ Table.get merging.tracks 511 = none := ⟨rfl, rfl⟩

/-- The first and the last writable byte, and a discarded one. -/
theorem hyp_SettingsBytesAreStoredAndClamped :
    State.reset.settings.lowThreshold ≤ 4095 ∧ (writing .bay 0 0 0 State.reset).writingAt .bay [] 0 0 0
      ∧ (writing .bay 0 0 10 State.reset).writingAt .bay [] 0 0 10
      ∧ (writing .bay 0 0 15 State.reset).writingAt .bay [] 0 0 15 :=
  ⟨by decide, ⟨rfl, rfl⟩, ⟨rfl, rfl⟩, ⟨rfl, rfl⟩⟩

theorem hyp_ProfileBytesAreClampedOrRefused :
    (writing .bay 1 7 23 mounted).writingAt .bay [] 1 (7 : Fin 8).val 23
      ∧ (∀ v : Fin 8, ((writing .bay 1 7 23 mounted).volumes[v]).isOpen = true →
          ((writing .bay 1 7 23 mounted).volumes[v]).profile ≠ 7)
      ∧ ((writing .bay 1 7 23 mounted).profiles[(7 : Fin 8)]).InRange
      ∧ ∃ v : Fin 8, ((writing .bay 1 0 0 mounted).volumes[v]).isOpen = true
          ∧ ((writing .bay 1 0 0 mounted).volumes[v]).profile = 0 := by
  refine ⟨⟨rfl, rfl⟩, by decide, ?_, 1, by decide⟩
  change profile.InRange
  unfold Profile.InRange
  decide

/-- The edges of each space's record; space 4 is the first read-only one. -/
theorem hyp_PresetScheduleAndReadOnlyBytes :
    (writing .bay 2 15 3 State.reset).writingAt .bay [] 2 (15 : Fin 16).val 3
      ∧ (writing .bay 3 3 17 State.reset).writingAt .bay [] 3 (3 : Fin 4).val 17
      ∧ (writing .bay 3 3 18 State.reset).writingAt .bay [] 3 (3 : Fin 4).val 18
      ∧ (writing .bay 4 0 0 State.reset).writingAt .bay [] 4 0 0
      ∧ (writing .bay 9 511 15 State.reset).writingAt .bay [] 9 511 15
      ∧ (State.reset.setPort .bay { Port.reset with phase := .writing [], cursor := .endOf 0 }).port .bay
          = ⟨.endOf 0, .ok, 0, 0, .writing []⟩ :=
  ⟨⟨rfl, rfl⟩, ⟨rfl, rfl⟩, ⟨rfl, rfl⟩, ⟨rfl, rfl⟩, ⟨rfl, rfl⟩, rfl⟩

/-! ### Volumes, passes and tables -/

/-- Arguments at the ends of their ranges, an OPEN and a FREE volume, and one argument out of range. -/
theorem hyp_OpenVolumeTestsAndOpens :
    (1024 : Word).toNat ≤ 1024 ∧ (8 : Byte).toNat ≤ 8 ∧ (64 : Byte).toNat ≤ 64
      ∧ (192 : Byte).toNat + (64 : Byte).toNat ≤ 256 ∧ 256 < (193 : Byte).toNat + (64 : Byte).toNat
      ∧ (7 : Byte).toNat = (7 : Fin 8).val ∧ (mounted.volumes[(1 : Fin 8)]).isOpen = true
      ∧ (mounted.volumes[(7 : Fin 8)]).isOpen = false ∧ 7 < (8 : Byte).toNat := by decide

theorem hyp_CloseVolumeTestsAndFrees :
    (mounted.volumes[(1 : Fin 8)]).isOpen = true
      ∧ (∀ (i : Fin 4) (d : Descriptor),
          (mounted.lanes[i]).active = some d ∨ (mounted.lanes[i]).chain = some d → d.volume ≠ 1)
      ∧ (∀ h, mounted.engine.hand = some h → h.attempt.key.track.volume ≠ 1)
      ∧ ((merging.lanes[(0 : Fin 4)]).active = some descriptor ∧ descriptor.volume = 1)
      ∧ (∃ h, merging.engine.hand = some h ∧ h.attempt.key.track.volume = 1)
      ∧ (mounted.volumes[(0 : Fin 8)]).isOpen = false := by
  refine ⟨rfl, ?_, fun h hh => (by cases hh), ⟨rfl, rfl⟩, ⟨_, rfl, rfl⟩, rfl⟩
  intro i d h
  fin_cases i <;> rcases h with h | h <;> cases h

/-- POST PASS: the first argument byte 31h names lane 3 and volume 1; a lane that is not IDLE with and without a
chained descriptor, and an IDLE one. -/
theorem hyp_PostPass :
    (0x31 : Byte).toNat = 16 * (3 : Fin 4).val + (1 : Fin 8).val ∧ (63 : Byte).toNat ≤ 63 ∧ (16 : Byte).toNat ≤ 16
      ∧ (mounted.volumes[(1 : Fin 8)]).isOpen = true ∧ (79 : Word).toNat < (mounted.volumes[(1 : Fin 8)]).cylinders
      ∧ (1 : Byte).toNat < (mounted.volumes[(1 : Fin 8)]).heads
      ∧ (mounted.volumes[(1 : Fin 8)]).cylinders ≤ (80 : Word).toNat ∧ (mounted.lanes[(3 : Fin 4)]).state = .idle
      ∧ (merging.lanes[(0 : Fin 4)]).state ≠ .idle ∧ (merging.lanes[(0 : Fin 4)]).chain = none
      ∧ (mounted.setLane 0 { laneIn .armed true 0 with chain := some descriptor }).lanes[(0 : Fin 4)].chain ≠ none := by
  decide

theorem hyp_AbortPassStopsTheLane :
    (3 : Byte).toNat = (3 : Fin 4).val ∧ 3 < (4 : Byte).toNat ∧ (mounted.lanes[(3 : Fin 4)]).state = .idle
      ∧ (merging.lanes[(0 : Fin 4)]).state ≠ .idle := by decide

theorem merging_distinct : merging.KeysDistinct := by
  unfold State.KeysDistinct
  decide

/-- A sector with an entry, one released, and one with neither; sectors 1 and 9 are the ends of the geometry. -/
theorem hyp_LocateAndQueryTrack :
    merging.KeysDistinct ∧ (12 : Word).toNat < (merging.volumes[(1 : Fin 8)]).cylinders
      ∧ (merging.volumes[(1 : Fin 8)]).firstSector ≤ (1 : Byte).toNat
      ∧ (9 : Byte).toNat < (merging.volumes[(1 : Fin 8)]).firstSector + (merging.volumes[(1 : Fin 8)]).sectorsPerTrack
      ∧ (0, entry) ∈ merging.entries ∧ entry.key = ⟨⟨1, 12, 1⟩, 4⟩
      ∧ (∀ e ∈ merging.entries, e.2.key ≠ ⟨⟨1, 12, 1⟩, 9⟩)
      ∧ (∀ t ∈ merging.tracks, t.2.key = ⟨1, 12, 1⟩ → t.2.releasedSet.getLsbD (9 - 1) = false)
      ∧ ∃ t ∈ ({ merging with tracks := [(0, { track with releasedSet := 0x100 })] }).tracks,
          t.2.key = ⟨1, 12, 1⟩ ∧ t.2.releasedSet.getLsbD (9 - 1) = true :=
  ⟨merging_distinct, by decide, by decide, by decide, by decide, rfl, by decide, by decide, by decide⟩

theorem hyp_NextSettledFindsTheLowest :
    Table.wf 4096 (granting .settled).entries = true ∧ (0, rested .settled) ∈ (granting .settled).entries
      ∧ (rested .settled).status = .settled ∧ (rested .settled).key.track.volume = 1
      ∧ (∀ j f, (j, f) ∈ (granting .settled).entries → 0 ≤ j)
      ∧ (∀ i e, (i, e) ∈ (granting .opened).entries → e.status ≠ .settled) ∧ 4095 < (4096 : Word).toNat := by
  refine ⟨by decide, by decide, rfl, rfl, fun j f _ => Nat.zero_le j, fun i e h => ?_, by decide⟩
  change (i, e) ∈ [(0, rested .opened)] at h
  rw [List.mem_singleton] at h
  cases h
  decide

theorem hyp_ReleaseTestsAndFrees :
    Table.get (granting .settled).entries 0 = some (rested .settled) ∧ (rested .settled).busy = false
      ∧ Table.get (granting .settled).tracks 0 = some track ∧ track.key = (rested .settled).key.track
      ∧ (granting .settled).KeysDistinct ∧ Table.get merging.entries 0 = some entry ∧ entry.busy = true
      ∧ Table.get merging.entries 4095 = none ∧ 4095 < (4096 : Word).toNat :=
  ⟨rfl, rfl, rfl, rfl, by unfold State.KeysDistinct; decide, rfl, rfl, rfl, by decide⟩

/-! ### Index edges -/

/-- With every timer of lane `i` short of its bound after `dt` ticks, the lane is on time. -/
theorem onTime_of {s : State} {i : Fin 4} {n dt : Nat}
    (h1 : ((s.lanes[i]).interval.all fun k => decide (k + dt ≤ 8192)) = true)
    (h2 : (s.lanes[i]).timing.timerTicks + dt ≤ 160 * n) : s.onTime i n dt := by
  refine ⟨fun k hk => ?_, fun _ => h2⟩
  rw [hk] at h1
  simpa using h1

/-- A lane capturing in HUNT, its interval open for a number of ticks and its index timer at `period`. -/
def open_ (ticks period : Nat) : State :=
  mounted.setLane 0 { laneIn .capturing true period with interval := some ticks }

/-- One tick before a bound, the interval at 8192 ticks, and the index timer at 2N. -/
theorem hyp_AnEmptyQueueLetsOneTickPass :
    State.reset.pending = [] ∧ (open_ 8191 0).onTime 0 200000 1 ∧ (open_ 8192 0).intervalEnds 0 200000 0
      ∧ (open_ 0 400000).indexExpires 0 200000 0 :=
  ⟨rfl, onTime_of (by decide) (by decide), ⟨⟨8192, rfl, rfl⟩, fun _ => by decide⟩,
    ⟨.inr rfl, by decide, fun k hk => by cases hk; decide⟩⟩

/-- Each port's transaction closed, or abandoned, while RESET_N is low. -/
theorem hyp_ResetsReturnEveryBlock :
    ({ State.reset with resetLow := true } : State).HeldInReset
      ∧ ({ State.reset with resetLow := true, pending := [.grant, .resetRelease]
                            bay := { Port.reset with phase := .abandoned } } : State).HeldInReset := by
  refine ⟨⟨rfl, fun i => ?_, rfl, fun p => ?_⟩, ⟨rfl, fun i => ?_, rfl, fun p => ?_⟩⟩
  · fin_cases i <;> rfl
  · cases p <;> exact ⟨rfl, .inl rfl⟩
  · fin_cases i <;> rfl
  · cases p
    · exact ⟨rfl, .inr rfl⟩
    · exact ⟨rfl, .inl rfl⟩

/-- Period 99999 is the longest glitch at N = 200000, and 100000 the shortest good period. -/
theorem hyp_GlitchesAndUnwatchedEdges :
    (working .armed true 99999).watching 0 descriptor ∧ (working .armed true 99999).onTime 0 200000 79
      ∧ (working .armed true 99999).ticksAfter 0 200000 79 / 80 < 200000 / 2
      ∧ (mounted.lanes[(0 : Fin 4)]).state = .idle ∧ mounted.onTime 0 200000 9 := by
  refine ⟨⟨rfl, .inl rfl⟩, onTime_of (by decide) (by decide), by decide, rfl, onTime_of (by decide) (by decide)⟩

/-- A first edge in ARMED; a good edge of the shortest period and a fault edge in CAPTURING; one in FINISHING. -/
theorem hyp_AcceptedEdges :
    (working .armed false 0).acceptsEdge 0 descriptor 0
      ∧ (working .capturing true 100000).acceptsEdge 0 descriptor 8192
      ∧ (working .capturing true 300001).acceptsEdge 0 descriptor 0
      ∧ (working .finishing true 300000).acceptsEdge 0 descriptor 0 := by
  refine ⟨⟨⟨rfl, .inl rfl⟩, onTime_of (by decide) (by decide), .inl rfl⟩,
    ⟨⟨rfl, .inr (.inl rfl)⟩, onTime_of (by decide) (by decide), .inr (by decide)⟩,
    ⟨⟨rfl, .inr (.inl rfl)⟩, onTime_of (by decide) (by decide), .inr (by decide)⟩,
    ⟨⟨rfl, .inr (.inr rfl)⟩, onTime_of (by decide) (by decide), .inr (by decide)⟩⟩

/-- The settle count one short of settle plus one and at it; the last but one captured revolution and the R-th, inside
a field and outside. -/
theorem hyp_AcceptedEdgesStartAndEndCapture :
    (laneIn .armed true 0).timing.settleCount + 1 < descriptor.settle + 1
      ∧ descriptor.settle + 1 ≤
          ({ (laneIn .armed true 0).timing with settleCount := 1 } : Timing).settleCount + 1
      ∧ (laneIn .capturing true 0).revolutions + 1 < descriptor.revolutions
      ∧ descriptor.revolutions ≤ ({ laneIn .capturing true 0 with revolutions := 1 } : Lane).revolutions + 1
      ∧ ({ Framer.reset with mode := .mark } : Framer).inside ∧ ¬ (laneIn .capturing true 0).framer.inside := by
  decide

/-- The timer at 2N and a tick short of it. -/
theorem hyp_NoIndexTimeoutEndsCapture :
    ((working .armed true 400000).lanes[(0 : Fin 4)]).active = some descriptor
      ∧ 2 * 200000 ≤ ((working .armed true 400000).laneAfter 0 200000 0).timing.timerTicks / 80
      ∧ ((working .armed true 399999).laneAfter 0 200000 79).timing.timerTicks / 80 < 2 * 200000
      ∧ ((working .capturing true 400000).laneAfter 0 200000 0).framer.mode = .hunt
      ∧ (working .armed true 400000).onTime 0 200000 0 ∧ (working .armed true 399999).onTime 0 200000 79 := by
  refine ⟨rfl, by decide, by decide, rfl, onTime_of (by decide) (by decide), onTime_of (by decide) (by decide)⟩

/-! ### Intervals and framing -/

/-- Interval 1 of 3.5 lies in the set and near its count; interval 5 lies outside the set. -/
theorem hyp_IntervalArithmeticIsExact :
    let x : Separator := ⟨2598, 0, 2, 3, 0⟩
    let y := x.compute .mfm 2598 329
    let z := x.compute .mfm 2598 1120
    0 < x.ccur ∧ x.tolerance ≤ 3 ∧ (Encoding.mfm.smallest : ℤ) ≤ y.kraw ∧ y.kraw ≤ Encoding.mfm.largest
      ∧ 2 * |(16 * (329 : ℤ) - y.k * x.ccur)| < x.ccur ∧ ((Encoding.mfm.largest : ℤ) < z.kraw) := by
  decide

/-- A lane capturing in DATA, its interval open for a number of ticks. -/
def inField (finishing : Bool) (open_ : Nat) : State :=
  mounted.setLane 0
    { laneIn .capturing true 0 with
      framer := { Framer.reset with mode := .data, finishing := finishing }, interval := some open_ }

/-- The flux of interval 1 of 3.5 in HUNT, a transition in ARMED, where no interval is open, the interval's timeout at
8192 ticks, and a transition at 10000 ticks, which the timeout precedes. -/
theorem hyp_FluxClosesTheOpenInterval :
    ((working .capturing true 0).lanes[(0 : Fin 4)]).active = some descriptor
      ∧ ((working .capturing true 0).lanes[(0 : Fin 4)]).interval = some 0
      ∧ (working .capturing true 0).onTime 0 200000 329 ∧ (working .capturing true 0).onTime 0 200000 8192
      ∧ ¬ ((working .capturing true 0).laneAfter 0 200000 329).framer.loses .mfm 2 ∧ 0 + 8192 = 8192
      ∧ ((working .armed true 0).lanes[(0 : Fin 4)]).interval = none ∧ (working .armed true 0).onTime 0 200000 329
      ∧ (working .capturing true 0).intervalEnds 0 200000 8192 ∧ 8192 < 10000
      ∧ (open_ 0 399999).indexExpires 0 200000 80 := by
  refine ⟨rfl, rfl, onTime_of (by decide) (by decide), onTime_of (by decide) (by decide), ?_, rfl, rfl,
    onTime_of (by decide) (by decide), ⟨⟨0, rfl, rfl⟩, fun _ => by decide⟩, by decide,
    ⟨.inr rfl, by decide, fun k hk => by cases hk; decide⟩⟩
  unfold Framer.loses
  rintro ⟨h, -⟩
  revert h
  decide

/-- R38: with no transition for 10000 ticks one interval ends at 8192, and its successor is open for the other 1808; by the
interval arithmetic of R40 to R44 the first takes Ccur to the band's top, 2560 + 160. -/
theorem test_timeout_interval :
    let s := open_ 0 0
    let l := (after (exec (.noIndexTimeout 0 10000) s)).lanes[0]
    l.interval = some 1808 ∧ l.separator.ccur = 2720 ∧ l.timing.timerTicks = 10000
      ∧ (after (exec (.fluxTransition 0 10000) s)).lanes[0] =
          (after (exec (.fluxTransition 0 1808) (after (exec (.intervalTimeout 0 8192) s)))).lanes[0] := by
  decide +kernel

/-- R29: an index edge long after 2N finds the lane in ARMED expired at 2N and draining, and is not taken. -/
theorem test_overdue_expiry :
    let l := (after (exec (.indexEdge 0 40000000) (working .armed true 0))).lanes[0]
    l.state = .draining ∧ l.cause = some .noIndex ∧ l.timing.timerTicks = 32000000 ∧ l.timing.edgeSeen = true
      ∧ l.timing.settleCount = 0 := by decide

/-- R172, R185: an answer's bytes end in 00h, and a transaction abandoned by the other port's reset shifts out FFh. -/
theorem test_bytes_shifted_out :
    (let t := after (exec (.closeVolume .bay 9) (opened .bay State.reset))
     (List.range 4).map (fun k => t.bay.phase.shiftsOut k) = [some 0, some 3, some 0, some 0])
      ∧ (after (exec (.resetDevice .station) (opened .station (opened .bay State.reset)))).bay.phase.shiftsOut 0
          = some 0xFF := by decide

/-- Lane 0 in FINISHING, its framer hunting while the finish request of a seek mismatch is `k` cells away. -/
def awaiting (k : Nat) : State :=
  mounted.setLane 0 { laneIn .capturing true 0 with state := .finishing, request := some k }

/-- R66: an interval of 2 cells brings a request 3 cells away to 1, and one 2 cells away to the framer, which stops; a
third A1h mark completed meanwhile has its field finished, however far the request was. -/
theorem hyp_FluxClosesTheOpenInterval_request :
    let marked : State :=
      mounted.setLane 0
        { (awaiting 9).lanes[0] with
          framer :=
            { Framer.reset.start with
              matchCount := 2, sinceMatch := 14, historyLength := 16, cellHistory := 0x9122 } }
    ((awaiting 3).lanes[(0 : Fin 4)]).active = some descriptor ∧ ((awaiting 3).lanes[(0 : Fin 4)]).state = .finishing
      ∧ ((awaiting 3).lanes[(0 : Fin 4)]).request = some (2 + 1)
      ∧ ((awaiting 2).lanes[(0 : Fin 4)]).request = some (1 + 1)
      ∧ ((awaiting 2).lanes[(0 : Fin 4)]).framer.mode = .hunt
      ∧ (let l := (after (exec (.fluxTransition 0 320) (awaiting 3))).lanes[(0 : Fin 4)]
         l.state = .finishing ∧ l.framer.mode = .hunt ∧ l.request = some 1 ∧ l.interval = some 0)
      ∧ (let l := (after (exec (.fluxTransition 0 320) (awaiting 2))).lanes[(0 : Fin 4)]
         l.state = .draining ∧ l.framer.mode = .stopped ∧ l.request = none ∧ l.interval = none)
      ∧ (let l := (after (exec (.fluxTransition 0 320) marked)).lanes[(0 : Fin 4)]
         l.state = .finishing ∧ l.framer.mode = .mark ∧ l.framer.finishing = true ∧ l.request = none) := by decide

/-- R18: the third run violation in a row raises the count to 3 and ends the field. -/
theorem test_third_run_violation :
    let j := Framer.judge profile false 6 { Framer.reset with mode := .id, runViolations := 2 } Counts.zero
    j.lost = true ∧ j.framer.mode = .hunt ∧ j.framer.runViolations = 3 ∧ j.counts.syncLosses = 1 := by decide

/-- R45: a dropout in FINISHING makes the framer STOPPED and does not re-anchor Ccur. -/
theorem test_sync_loss_in_finishing :
    let l := (after (exec (.fluxTransition 0 2400) (mounted.setLane 0
      { (inField false 0).lanes[0] with state := .finishing, separator := ⟨2600, 5, 0, 1, 0⟩ }))).lanes[0]
    l.state = .draining ∧ l.framer.mode = .stopped ∧ l.separator.ccur = 2600 ∧ l.counts.syncLosses = 1 := by decide

/-- A dropout in DATA, with and without a finish request, and the bounds of the cell period and the bias. -/
theorem hyp_SyncLossEndsTheField :
    ((inField false 0).lanes[(0 : Fin 4)]).active = some descriptor
      ∧ ((inField false 0).lanes[(0 : Fin 4)]).interval = some 0
      ∧ ((inField false 0).laneAfter 0 200000 2400).framer.loses .mfm
          ((Separator.mk 2560 5 2 1 0).compute .mfm 2560 (0 + 2400)).kraw
      ∧ ((inField false 0).laneAfter 0 200000 2400).framer.finishing = false
      ∧ ((inField false 0).laneAfter 0 200000 2400).state ≠ .finishing
      ∧ ((inField true 0).laneAfter 0 200000 2400).framer.finishing = true ∧ 8191 + 0 < 8192
      ∧ (17 : ℤ) ≤ ((Separator.mk 7650 5 2 1 4).compute .mfm 2560 (0 + 8192)).kraw
      ∧ (inField false 0).onTime 0 200000 2400 ∧ (inField false 0).onTime 0 200000 8192 := by
  refine ⟨rfl, rfl, ?_, rfl, by decide, rfl, by decide, by decide, onTime_of (by decide) (by decide),
    onTime_of (by decide) (by decide)⟩
  unfold Framer.loses
  exact ⟨.inr (.inr rfl), .inl (by decide)⟩

theorem hyp_BytesDecodeFromTheirCells :
    (cellsOf 9 [1, 0, 0, 1, 0, 0, 1, 0, 0, 1, 0, 1, 0, 1, 0, 0]).length = 16
      ∧ (cellsOf 7 [0, 1, 0, 1, 0, 1, 1, 1, 1, 1]).length = 10 := ⟨rfl, rfl⟩

/-- Three times the reset pattern under MFM, and 10 and 9 one cells before a zero cell under GCR. Cell by cell: 14 and 15
cells since the last match, a history of 14 and of 15 cells, the last counted match but one, and the 688th cell of a gap. -/
theorem hyp_MarksAreFoundInHunt :
    Framer.reset.start.mode = .hunt ∧ Framer.reset.start.matchCount = 0 ∧ Framer.reset.start.historyLength = 0
      ∧ 1 ≤ profile.markRepeat
      ∧ (let row := cellsOf 15 [0, 1, 0, 0, 0, 1, 0, 0, 1, 0, 0, 0, 1, 0, 0, 1]
         (row ++ row ++ row).length = 16 * profile.markRepeat
           ∧ ∀ j < (row ++ row ++ row).length,
               ((row ++ row ++ row)[j]?.map (·.one)) = some (profile.markPattern.getLsbD (15 - j % 16)))
      ∧ Framer.reset.start.oneRun = 0 ∧ (∀ c ∈ List.replicate 10 (RecordedCell.mk true 15), c.one = true)
      ∧ 10 ≤ (List.replicate 10 (RecordedCell.mk true 15)).length
      ∧ (List.replicate 9 (RecordedCell.mk true 15)).length < 10
      ∧ (let f : Framer := { Framer.reset.start with matchCount := 1, sinceMatch := 14, historyLength := 14 }
         ¬ (f.matchCount = 0 ∨ 15 ≤ f.sinceMatch) ∧ ¬ (15 ≤ f.historyLength)
           ∧ 15 ≤ ({ f with sinceMatch := 15 } : Framer).sinceMatch
           ∧ 15 ≤ ({ f with historyLength := 15 } : Framer).historyLength
           ∧ f.matchCount + 1 < profile.markRepeat
           ∧ profile.markRepeat ≤ ({ f with matchCount := 2 } : Framer).matchCount + 1)
      ∧ ({ Framer.reset with mode := .gap, gapCount := 687 } : Framer).gapCount + 1 ≤ profile.gapLimit * 16
      ∧ (0x2244#16 <<< 1) ||| 1#16 = profile.markPattern := by decide

/-- R11: a mismatch at the 16th cell after a match returns the match count to 0, at the 15th no comparison is made, and the
cell after a mismatch is compared again: a pattern completed there is a first match. -/
theorem test_false_mark_breaks :
    let f : Framer :=
      { Framer.reset.start with matchCount := 1, sinceMatch := 15, historyLength := 16, cellHistory := 0x9122 }
    let cells := cellsOf 15 [0, 1]
    (Framer.takeAll profile (cells.take 1) f Counts.zero).1.matchCount = 0
      ∧ (Framer.takeAll profile (cells.take 1) { f with sinceMatch := 14 } Counts.zero).1.matchCount = 1
      ∧ (Framer.takeAll profile cells { f with cellHistory := 0x5112 } Counts.zero).1.matchCount = 0
      ∧ (Framer.takeAll profile cells f Counts.zero).1.matchCount = 1 := by decide

/-- A framer in MARK one cell short of the field mark byte, from HUNT or from GAP with a gap count. -/
def inMark (fromGap : Bool) (gap : Nat) (bits : List Nat) : Framer :=
  { Framer.reset with mode := .mark, markFromGap := fromGap, gapCount := gap, cells := (cellsOf 15 bits).reverse }

/-- The ID mark, a data mark after an ID, and a stray mark with the gap count at the limit of 688 and past it. -/
theorem hyp_FieldMarkBytesAreClassified :
    (inMark false 0 [0, 1, 0, 1, 0, 1, 0, 1, 0, 1, 0, 1, 0, 1, 0]).cells.length + 1 = 16
      ∧ (decodeByte .mfm (cellsOf 15 [0, 1, 0, 1, 0, 1, 0, 1, 0, 1, 0, 1, 0, 1, 0, 0])).value = profile.idMark
      ∧ (decodeByte .mfm (cellsOf 15 [0, 1, 0, 1, 0, 1, 0, 1, 0, 1, 0, 0, 0, 1, 0, 1])).value = profile.dataMark
      ∧ (decodeByte .mfm (cellsOf 15 [0, 1, 0, 1, 0, 1, 0, 1, 0, 1, 0, 1, 0, 1, 0, 1])).value ∉
          [profile.idMark, profile.dataMark, profile.deletedMark]
      ∧ ¬ profile.gapLimit * 16 < (inMark true 687 []).gapCount + 1
      ∧ profile.gapLimit * 16 < (inMark true 688 []).gapCount + 1 := by decide

/-- The ID of example 1.7 held. -/
def heldId : HeldId := ⟨2, 0, 5, 2, false, true, 1, [2, 0, 5, 2], [15, 15, 15, 15]⟩

/-- The sixth byte of an ID field of four bytes, and the last of a data field of three. -/
theorem hyp_FieldsEndAtTheirSecondCrcByte :
    let f : Framer := { Framer.reset with mode := .id, bytes := [0, 2, 5, 0, 2], cells := List.replicate 15 ⟨true, 3⟩ }
    let g : Framer :=
      { Framer.reset with
        mode := .data, heldId := some heldId, bytes := [0, 1], cells := List.replicate 15 ⟨true, 3⟩ }
    f.cells.length + 1 = 16 ∧ f.bytes.length + 1 = profile.idLength + 2 ∧ g.cells.length + 1 = 16
      ∧ g.heldId = some heldId ∧ g.bytes.length + 1 = heldId.dataLength + 2 := by decide

/-- A cell that does not complete a byte and one that does: the last ID byte but the CRC's second, and a first data byte. -/
theorem hyp_FieldsEndAtTheirSecondCrcByte_within :
    let f : Framer := { Framer.reset with mode := .id, bytes := [2, 5, 0, 2], cells := List.replicate 14 ⟨true, 3⟩ }
    let g : Framer := { Framer.reset with mode := .data, heldId := some heldId, cells := List.replicate 15 ⟨true, 3⟩ }
    f.inside ∧ f.cells.length + 1 < 16
      ∧ ({ f with cells := List.replicate 15 ⟨true, 3⟩ } : Framer).cells.length + 1 = 16
      ∧ f.bytes.length + 1 < profile.idLength + 2 ∧ g.inside ∧ g.cells.length + 1 = 16 ∧ g.heldId = some heldId
      ∧ g.bytes.length + 1 < heldId.dataLength + 2 := by decide

/-- R15, R47: the 15th cell of a stray field mark byte in GAP is counted, and a data byte joins its field with the smallest
confidence of its cells. -/
theorem test_cells_within_a_field :
    ((inMark true 687 (List.replicate 14 0)).takeCell profile ⟨true, 4⟩ Counts.zero).framer.gapCount = 688
      ∧ (let g : Framer :=
            { Framer.reset with
              mode := .data, heldId := some heldId, bytes := [7], confidences := [15]
              cells := (cellsOf 9 [1, 0, 0, 1, 0, 0, 1, 0, 0, 1, 0, 1, 0, 1, 0]).reverse }
         let r := (g.takeCell profile ⟨false, 5⟩ Counts.zero).framer
         r.mode = .data ∧ r.bytes = [0x4E, 7] ∧ r.confidences = [5, 15] ∧ r.cells = []) := by decide

/-- A lane capturing whose data field two cells complete, of an ID on another cylinder, one seek mismatch short of the
limit; `f` changes its framer. -/
def mismatching (f : Framer → Framer) : Lane :=
  let l := laneIn .capturing true 0
  { l with
    framer :=
      f { Framer.reset with
          mode := .data, heldId := some heldId, bytes := [0, 1], confidences := [9, 9], historyLength := 16
          cellHistory := 0x0891, cells := List.replicate 14 ⟨true, 3⟩ }
    counts := { l.counts with seekMismatches := 1 } }

/-- That lane after the first `m` cells of an interval of three, under a profile of one mark. -/
def mismatchAfter (f : Framer → Framer) (pattern : Word) (m : Nat) : Lane :=
  let env : LaneEnv := ⟨0, { profile with markRepeat := 1, markPattern := pattern }, volume, 10, 2⟩
  ((cellsOf 15 [0, 0, 1]).take m).foldl (fun x c => x.takeCell env descriptor c) (mismatching f)

/-- R66: the pair completes at the second of three cells. Whether the request arrives with it or later, the framer hunts on,
or has found a mark at the third cell, or, under a finish request, has stopped. -/
theorem hyp_FluxClosesTheOpenInterval_mismatch :
    (mismatching id).request = none ∧ (mismatchAfter id 0x4489 1).state = .capturing
      ∧ (mismatchAfter id 0x4489 2).state = .finishing
      ∧ (∀ m < 2, (mismatchAfter id 0x1111 (m + 2)).framer.mode = .hunt)
      ∧ (mismatchAfter id 0x1111 2).state = .finishing ∧ (mismatchAfter id 0x4489 2).framer.mode = .hunt
      ∧ (mismatchAfter id 0x4489 3).framer.mode = .mark
      ∧ (∀ m < 2, (mismatchAfter (fun f => { f with finishing := true }) 0x4489 (m + 2)).framer.mode = .stopped) := by
  decide

/-- The 688th and the 689th cell in GAP, and the framer's other states. -/
theorem hyp_GapLimitAndRequestsEndTheSearch :
    let f : Framer := { Framer.reset with mode := .gap, heldId := some heldId, gapCount := 687 }
    f.gapCount + 1 ≤ profile.gapLimit * 16 ∧ profile.gapLimit * 16 < ({ f with gapCount := 688 } : Framer).gapCount + 1
      ∧ Framer.reset.mode = .stopped ∧ Framer.reset.start.mode = .hunt
      ∧ ({ f with mode := .id } : Framer).inside := by decide

/-- A pair of an ID. -/
def pairOf (cylinder sector : Nat) (good : Bool) (low : Nat) : FieldPair :=
  ⟨⟨cylinder, 1, sector, 2, false, good, 512, [], [13, 14, low, 12]⟩, false, false, [], []⟩

/-- A seek mismatch, a sector past the geometry's last, an untrusted ID one short of the floor, and a kept one at it. -/
theorem hyp_FieldPairsAreAnchoredAndQueued :
    (pairOf 11 5 true 15).id.cylinder ≠ descriptor.cylinder
      ∧ ¬ ((pairOf 12 10 true 15).id.sector < volume.firstSector + volume.sectorsPerTrack)
      ∧ ¬ (∀ q ∈ (pairOf 12 3 false 9).id.confidences, 10 ≤ q)
      ∧ (∀ q ∈ (pairOf 12 9 false 10).id.confidences, 10 ≤ q)
      ∧ (pairOf 12 9 false 10).id.sector < volume.firstSector + volume.sectorsPerTrack
      ∧ (List.replicate 5 attempt).length < 6
      ∧ 6 ≤ ({ laneIn .capturing true 0 with queue := List.replicate 6 attempt } : Lane).queue.length := by decide

/-- A cell that completes no pair, and the last cell of a data field's second CRC byte (of a field short of data), which
completes one. -/
theorem hyp_FieldPairsAreAnchoredAndQueued_cell :
    let f : Framer :=
      { Framer.reset with
        mode := .data, heldId := some { heldId with dataLength := 1 }, fieldMark := 0xFB
        cells := List.replicate 15 ⟨true, 15⟩, bytes := [0, 0], confidences := [15, 15] }
    (Framer.reset.takeCell profile ⟨true, 15⟩ Counts.zero).pair = none
      ∧ (f.takeCell profile ⟨true, 9⟩ Counts.zero).pair ≠ none := by decide

theorem hyp_PassCompletionReportsAndPromotes :
    let s := holding .draining [] entry (Slot.fresh 1)
    let chained := s.setLane 0 { s.lanes[0] with chain := some descriptor }
    (s.lanes[(0 : Fin 4)]).state = .draining ∧ (s.lanes[(0 : Fin 4)]).queue = []
      ∧ (∀ h, s.engine.hand = some h → h.attempt.lane ≠ 0) ∧ (s.lanes[(0 : Fin 4)]).chain = none
      ∧ (merging.lanes[(0 : Fin 4)]).queue ≠ []
      ∧ (chained.lanes[(0 : Fin 4)]).chain = some descriptor ∧ (chained.lanes[(0 : Fin 4)]).state = .draining
      ∧ (chained.lanes[(0 : Fin 4)]).queue = [] ∧ ∀ h, chained.engine.hand = some h → h.attempt.lane ≠ 0 := by
  refine ⟨rfl, rfl, fun h hh => (by cases hh), rfl, by decide, rfl, rfl, rfl, fun h hh => (by cases hh)⟩

/-! ### Grants -/

theorem granting_grants (status : Status) : (granting status).Grants 0 attempt [] := by
  refine ⟨rfl, rfl, .inr ⟨rfl, fun _ j hj => absurd hj (by omega), fun h => (by cases h)⟩⟩

theorem granting_distinct (status : Status) : (granting status).KeysDistinct := by
  unfold State.KeysDistinct
  cases status <;> decide

/-- A grant in fixed mode, one in rotating mode, where the order puts an empty queue ahead, and a burst in progress. -/
theorem hyp_GrantsFollowTheArbitersOrder :
    (granting .opened).Grants 0 attempt []
      ∧ ({ granting .opened with
            settings := { Settings.reset with rotating := true }
            arbiter := { Arbiter.reset with order := [3, 0, 1, 2] } } : State).Grants 0 attempt []
      ∧ ({ granting .opened with arbiter := { Arbiter.reset with owner := some 0 } } : State).Grants 0 attempt []
      ∧ (granting .opened).OrderComplete ∧ (∃ i : Fin 4, ((granting .opened).lanes[i]).queue ≠ [])
      ∧ merging.engine.phase ≠ .idle := by
  refine ⟨granting_grants _, ⟨rfl, rfl, .inr ⟨rfl, fun h => (by cases h), fun _ => ⟨[3], [1, 2], rfl, ?_⟩⟩⟩,
    ⟨rfl, rfl, .inl rfl⟩, List.Perm.refl _, ⟨0, by decide⟩, by decide⟩
  intro j hj
  rw [List.mem_singleton] at hj
  subst hj
  rfl

/-- A released sector, a SETTLED entry, an OPEN entry of the attempt's length and mark, and of another length. -/
theorem hyp_GrantsClassifyKnownSectors :
    (∃ r ∈ ({ granting .opened with tracks := [(0, { track with releasedSet := 0x8 })] } : State).tracks,
        r.2.key = attempt.key.track ∧ r.2.releasedSet.getLsbD (attempt.key.sector - volume.firstSector) = true)
      ∧ (granting .settled).KeysDistinct ∧ (0, rested .settled) ∈ (granting .settled).entries
      ∧ (rested .settled).key = attempt.key
      ∧ ¬ (∃ r ∈ (granting .settled).tracks,
            r.2.key = attempt.key.track ∧ r.2.releasedSet.getLsbD (attempt.key.sector - volume.firstSector) = true)
      ∧ (rested .opened).status = .opened ∧ attempt.dataLength = (rested .opened).dataLength
      ∧ attempt.dataLength ≠ ({ rested .opened with dataLength := 128 } : Entry).dataLength :=
  ⟨by decide, granting_distinct _, by decide, rfl, by decide, rfl, rfl, by decide⟩

/-- Tables with no free record, no record of the attempt's track among them. -/
def fullEntries : Table Entry := (List.range 4096).map fun i => (i, { entry with key := ⟨⟨0, i, 0⟩, 0⟩ })

/-- See `fullEntries`. -/
def fullTracks : Table Track := (List.range 512).map fun i => (i, Track.fresh ⟨0, i, 0⟩)

theorem get_range {α : Type} (f : Nat → α) (n i : Nat) (h : i < n) :
    Table.get ((List.range n).map fun i => (i, f i)) i ≠ none := by
  rw [Ne, Table.get_eq_none_iff]
  intro hc
  exact hc (i, f i) (List.mem_map.2 ⟨i, List.mem_range.2 h, rfl⟩) rfl

theorem fullEntries_keys : (fullEntries.map fun e => e.2.key).Nodup := by
  unfold fullEntries
  rw [List.map_map]
  exact List.nodup_range.map (fun a b h => by simpa using h)

theorem fullTracks_keys : (fullTracks.map fun t => t.2.key).Nodup := by
  unfold fullTracks
  rw [List.map_map]
  exact List.nodup_range.map (fun a b h => by simpa [Track.fresh] using h)

theorem fullEntries_new : ∀ e ∈ fullEntries, e.2.key ≠ attempt.key := by
  intro e he
  unfold fullEntries at he
  obtain ⟨i, -, rfl⟩ := List.mem_map.1 he
  simp [attempt]

theorem fullTracks_new : ∀ r ∈ fullTracks, r.2.key ≠ attempt.key.track := by
  intro r hr
  unfold fullTracks at hr
  obtain ⟨i, -, rfl⟩ := List.mem_map.1 hr
  simp [attempt, Track.fresh]

theorem fullEntries_full : ∀ i < 4096, Table.get fullEntries i ≠ none := by
  unfold fullEntries
  exact fun i hi => get_range _ _ _ hi

theorem fullTracks_full : ∀ j < 512, Table.get fullTracks j ≠ none := by
  unfold fullTracks
  exact fun i hi => get_range _ _ _ hi

/-- `granting` with other tables. -/
def grantingInto (entries : Table Entry) (tracks : Table Track) : State :=
  { granting .opened with entries := entries, tracks := tracks }

/-- With tables of distinct keys, none of them the attempt's, and no free record, all that a full table needs is met. -/
theorem grantingInto_full {entries : Table Entry} {tracks : Table Track}
    (h1 : (entries.map fun e => e.2.key).Nodup) (h2 : (tracks.map fun t => t.2.key).Nodup)
    (h3 : ∀ e ∈ entries, e.2.key ≠ attempt.key) (h4 : ∀ i < 4096, Table.get entries i ≠ none)
    (h5 : ∀ r ∈ tracks, r.2.key ≠ attempt.key.track) (h6 : ∀ j < 512, Table.get tracks j ≠ none) :
    let s := grantingInto entries tracks
    s.Grants 0 attempt [] ∧ s.KeysDistinct ∧ (∀ e ∈ s.entries, e.2.key ≠ attempt.key)
      ∧ (∀ i < 4096, Table.get s.entries i ≠ none) ∧ (∀ r ∈ s.tracks, r.2.key ≠ attempt.key.track)
      ∧ ∀ j < 512, Table.get s.tracks j ≠ none :=
  ⟨granting_grants .opened, ⟨h1, h2⟩, h3, h4, h5, h6⟩

/-- The lowest free entry and track record are 0, and 0 with the track's own record at 0. -/
theorem hyp_GrantsAllocateForNewSectors :
    (grantingInto [] []).Grants 0 attempt [] ∧ (grantingInto [] []).KeysDistinct
      ∧ Table.get (grantingInto [] []).entries 0 = none
      ∧ Table.get (grantingInto [] [(0, track)]).tracks 0 = some track ∧ track.key = attempt.key.track
      ∧ track.releasedSet.getLsbD (attempt.key.sector - volume.firstSector) = false :=
  ⟨granting_grants .opened, ⟨List.nodup_nil, List.nodup_nil⟩, rfl, rfl, rfl, by decide⟩

/-- Both tables full. -/
theorem hyp_GrantsAllocateForNewSectors_full :
    let s := grantingInto fullEntries fullTracks
    s.Grants 0 attempt [] ∧ s.KeysDistinct ∧ (∀ e ∈ s.entries, e.2.key ≠ attempt.key)
      ∧ (∀ i < 4096, Table.get s.entries i ≠ none) ∧ (∀ r ∈ s.tracks, r.2.key ≠ attempt.key.track)
      ∧ ∀ j < 512, Table.get s.tracks j ≠ none :=
  grantingInto_full fullEntries_keys fullTracks_keys fullEntries_new fullEntries_full fullTracks_new fullTracks_full

/-! ### Merging and evaluation -/

/-- A present value below and above a sum of 255, an absent value of a short list and of a list of three. -/
theorem hyp_CandidateListsAreUpdatedByRank :
    Ranked [⟨0x4F, 250⟩, ⟨0x4E, 26⟩, ⟨0x11, 1⟩] ∧ Ranked [⟨0x4F, 225⟩] ∧ (30 : Nat) ≤ 30
      ∧ Candidate.mk 0x4F 225 ∈ [Candidate.mk 0x4F 225] ∧ 225 + 30 ≤ 255
      ∧ Candidate.mk 0x4F 250 ∈ [Candidate.mk 0x4F 250, ⟨0x4E, 26⟩, ⟨0x11, 1⟩] ∧ 255 < 250 + 30
      ∧ (∀ x ∈ [Candidate.mk 0x4F 250, ⟨0x4E, 26⟩, ⟨0x11, 1⟩], x.value ≠ 0x7A) := by
  unfold Ranked
  decide

/-- The slot of an entry with a witness. -/
def witnessed (w : List Byte) : Slot := { Slot.fresh 1 with witness := some w }

/-- `merging` with an attempt of good or bad CRC, an entry and a slot of its own. -/
def mergingInto (good : Bool) (e : Entry) (x : Slot) : State :=
  { merging with
    entries := [(0, e)], slots := [(0, x)]
    engine := { merging.engine with hand := some ⟨{ attempt with crcGood := good }, 0⟩ } }

theorem mergingInto_whole (good : Bool) (e : Entry) (x : Slot) (he : e.dataLength = 1) (hx : x.Whole 1) :
    (mergingInto good e x).RecordsWhole := by
  refine ⟨merging_whole.1, ?_, ?_⟩
  · intro i e' h
    obtain ⟨rfl, rfl⟩ := get_one h
    exact ⟨x, rfl, he ▸ hx⟩
  · intro h hh
    cases hh
    refine ⟨⟨rfl, rfl⟩, fun e' h' => ?_⟩
    obtain ⟨-, rfl⟩ := get_one h'
    exact he

/-- No witness, an equal one, a differing weak one and a differing strong one. -/
theorem hyp_MergeEndUpdatesListsAndWitness :
    merging.RecordsWhole ∧ merging.engine.phase = .merge ∧ merging.engine.hand = some ⟨attempt, 0⟩
      ∧ Table.get merging.entries 0 = some entry ∧ Table.get merging.slots 0 = some (Slot.fresh 1)
      ∧ attempt.crcGood = false
      ∧ (mergingInto true entry (Slot.fresh 1)).RecordsWhole
      ∧ (mergingInto true entry (witnessed attempt.bytes)).RecordsWhole
      ∧ (mergingInto true entry (witnessed [0x4F, 0, 1])).RecordsWhole ∧ attempt.bytes ≠ [0x4F, 0, 1]
      ∧ entry.confirmations = 0 ∧ 1 ≤ ({ entry with confirmations := 1 } : Entry).confirmations := by
  have hw : ∀ w : List Byte, w.length = 3 → (witnessed w).Whole 1 :=
    fun w h => ⟨rfl, rfl, fun v hv => by cases hv; exact h⟩
  exact ⟨merging_whole, rfl, rfl, rfl, rfl, rfl,
    mergingInto_whole _ _ _ rfl ⟨rfl, rfl, by intro w h; cases h⟩, mergingInto_whole _ _ _ rfl (hw _ rfl),
    mergingInto_whole _ _ _ rfl (hw _ rfl), by decide, rfl, by decide⟩

/-- The data byte 4Eh with its CRC under the reset profile. -/
def goodImage : List Byte := [0x4E] ++ wordBytes (crcRun 0xFFFF [0xA1, 0xA1, 0xA1, 0xFB, 0x4E])

/-- Candidate lists of one candidate each. -/
def single (image : List Byte) : List (List Candidate) := image.map fun v => [⟨v, 9⟩]

/-- A good vote equal to the witness, at quorum and below it, with the flag clear and set; one that differs from a weak
and from a strong witness; a blank position; no witness. -/
theorem hyp_TheVoteIsWeighedAgainstTheWitness :
    (∀ l ∈ single goodImage, l ≠ []) ∧ profile.imageGood entry.deleted (votedImage (single goodImage)) = true
      ∧ votedImage (single goodImage) = goodImage ∧ votedImage (single goodImage) ≠ [0, 0, 0]
      ∧ 3 ≤ ({ entry with merged := 3 } : Entry).merged ∧ entry.merged < 3 ∧ entry.voteConfirm = false
      ∧ entry.confirmations = 0 ∧ ¬ (∀ l ∈ ([[]] : List (List Candidate)), l ≠ []) := by decide +kernel

/-- Four positions whose voted image is bad: position 3 stands wrongly at 00h before its right byte, and the first
three have second candidates that differ from the first by the generator polynomial. -/
def disputed : List (List Candidate) :=
  let c := crcRun 0xFFFF [0xA1, 0xA1, 0xA1, 0xFB, 0x4E, 0x31]
  [[⟨0x4E, 12⟩, ⟨0x4E ^^^ 0x01, 10⟩], [⟨0x31, 12⟩, ⟨0x31 ^^^ 0x10, 10⟩],
    [⟨c.extractLsb' 8 8, 12⟩, ⟨c.extractLsb' 8 8 ^^^ 0x21, 10⟩],
    [⟨c.extractLsb' 0 8 ^^^ 0xFF, 12⟩, ⟨c.extractLsb' 0 8, 11⟩]]

/-- With depth 1 exactly trial 1 is good, with depth 4 trials 1 and 15 are, with depth 0 there is none to make, and with
position 3 left out none is good. -/
theorem hyp_RepairTriesTheContestedPositions :
    (∀ l ∈ disputed, l ≠ []) ∧ profile.imageGood false (votedImage disputed) = false
      ∧ contestedSet 6 disputed = [3, 0, 1, 2]
      ∧ ((List.range 16).filter fun t =>
          profile.imageGood false (trialImage disputed [3, 0, 1, 2] t (votedImage disputed))) = [1, 15]
      ∧ ((List.range 8).filter fun t =>
          profile.imageGood false (trialImage disputed [0, 1, 2] t (votedImage disputed))) = [] := by decide +kernel

/-- An evaluation that leaves the entry OPEN, and one that settles it. -/
theorem hyp_EvaluationCompletionTakesEffect :
    let s := { merging with engine := { merging.engine with phase := .evaluation } }
    let e : Entry := { entry with origin := .attempt, confirmations := 2 }
    s.engine.phase = .evaluation ∧ s.engine.hand = some ⟨attempt, 0⟩ ∧ Table.get s.entries 0 = some entry
      ∧ Table.get s.slots 0 = some (Slot.fresh 1)
      ∧ (entry.decide profile (Slot.fresh 1) 6 3 3).witness = none ∧ entry.status ≠ .settled
      ∧ (e.decide profile (witnessed [1, 2, 3]) 6 3 3).witness ≠ none
      ∧ e.target ≤ (e.decide profile (witnessed [1, 2, 3]) 6 3 3).confirmations
      ∧ (e.decide profile (witnessed [1, 2, 3]) 6 3 3).conflictRecorded = false ∧ s.KeysDistinct
      ∧ Table.get s.tracks 0 = some track ∧ track.key = e.key.track :=
  ⟨rfl, rfl, rfl, rfl, by decide, by decide, by decide, by decide, by decide, merging_distinct, rfl, rfl⟩

theorem hyp_CommandsSurviveTheirTransaction :
    (Instr.release .bay 0x0239).wellFormed = true
      ∧ (Instr.release .bay 0x0239).transaction = some (.bay, [0x48, 0x02, 0x39])
      ∧ (Instr.unknownCommand .bay 0x7F).wellFormed = true
      ∧ (Instr.unknownCommand .bay 0x7F).transaction = some (.bay, [0x7F]) := by decide

/-! ### Invariants -/

theorem merging_canonical : merging.TablesCanonical := by
  unfold State.TablesCanonical
  decide

theorem merging_busy : merging.BusyEntryInHand := by
  refine ⟨⟨fun h => (by cases h), fun h => (by cases h)⟩, ?_, ?_⟩
  · intro h hh
    cases hh
    exact ⟨entry, rfl, rfl, rfl, .inl rfl⟩
  · intro i e h _
    obtain ⟨rfl, rfl⟩ := get_one h
    exact ⟨_, rfl, rfl⟩

theorem merging_named : merging.NamedVolumesOpen := by
  refine ⟨by decide, by decide, ?_, ?_⟩
  · intro i d h
    fin_cases i
    · rcases h with h | h <;> cases h
      rfl
    all_goals rcases h with h | h <;> cases h
  · intro h hh
    cases hh
    rfl

theorem merging_lanes : merging.LanesConsistent := by
  intro i
  fin_cases i
  · refine ⟨fun h => (by cases h), by decide, ?_⟩
    intro a ha
    change a ∈ [attempt] at ha
    rw [List.mem_singleton] at ha
    subst ha
    exact ⟨rfl, descriptor, rfl, rfl⟩
  all_goals exact ⟨fun _ => ⟨rfl, rfl, rfl⟩, by decide, fun a ha => (by cases ha)⟩

theorem merging_counts : merging.VolumeCountsMatch ∧ merging.TrackCountsMatch := by
  unfold State.VolumeCountsMatch State.TrackCountsMatch
  decide

theorem merging_geometry : merging.GeometrySound := by
  unfold State.GeometrySound Volume.Holds
  decide

/-- A volume with one sector per track, released, so that its one track is done. -/
def oneReleased : State :=
  { (mounted.setVolume 1 { volume with sectorsPerTrack := 1, released := 1, tracksDone := 1 }) with
    tracks := [(0, { Track.fresh ⟨1, 12, 1⟩ with releasedSet := 1, released := 1, done := true })] }

/-- A track one of whose nine sectors is released, and a done one of a volume with one sector per track. -/
theorem hyp_ReleasedSetsMatch :
    merging.ReleasedSetsMatch
      ∧ ({ merging with tracks := [(0, { track with releasedSet := 0x100, released := 1 })] } : State).ReleasedSetsMatch
      ∧ oneReleased.ReleasedSetsMatch := by
  unfold State.ReleasedSetsMatch
  decide

theorem hyp_VolumeTalliesMatch : merging.VolumeTalliesMatch ∧ oneReleased.VolumeTalliesMatch := by
  unfold State.VolumeTalliesMatch
  decide

/-- A state in the middle of a merge meets every invariant that a statement assumes. -/
theorem hyp_invariants :
    merging.TablesCanonical ∧ merging.KeysDistinct ∧ merging.BusyEntryInHand ∧ merging.NamedVolumesOpen
      ∧ merging.LanesConsistent ∧ merging.VolumeCountsMatch ∧ merging.TrackCountsMatch ∧ merging.GeometrySound
      ∧ merging.VolumeTalliesMatch ∧ merging.ReleasedSetsMatch ∧ merging.RecordsWhole ∧ merging.OrderComplete :=
  ⟨merging_canonical, merging_distinct, merging_busy, merging_named, merging_lanes, merging_counts.1, merging_counts.2,
    merging_geometry, hyp_VolumeTalliesMatch.1, hyp_ReleasedSetsMatch.1, merging_whole, List.Perm.refl _⟩

theorem hyp_StatusFollowsTheWitness : merging.StatusFollowsWitness := by
  intro i e x he hx
  obtain ⟨rfl, rfl⟩ := get_one he
  obtain ⟨-, rfl⟩ := get_one hx
  exact ⟨⟨fun _ => rfl, fun _ => rfl⟩, fun _ => rfl, by decide, fun h => (by cases h), fun h => (by cases h),
    fun h => (by cases h)⟩

theorem hyp_EvidenceSound : merging.EvidenceSound := by
  refine ⟨?_, ?_, ?_, ?_, by decide, by decide, ?_⟩
  · intro i c hc
    fin_cases i <;> cases hc
  · intro i h hh
    fin_cases i <;> cases hh
  · intro i a ha
    fin_cases i
    · change a ∈ [attempt] at ha
      rw [List.mem_singleton] at ha
      subst ha
      decide
    all_goals cases ha
  · intro h hh
    cases hh
    decide
  · unfold Ranked
    decide

theorem hyp_FieldsInRange : merging.FieldsInRange := by
  unfold State.FieldsInRange Settings.InRange Preset.InRange Schedule.InRange
  refine ⟨by decide, fun n => ?_, by decide, by decide⟩
  have h : profile.InRange := by unfold Profile.InRange; decide
  fin_cases n <;> exact h

/-- A lane capturing with its interval open, and lanes in IDLE. -/
theorem hyp_ClocksInRange : merging.ClocksInRange := by
  intro i
  fin_cases i
  · refine ⟨fun d hd => ?_, by decide, fun _ => by decide, fun _ => ⟨.inl rfl, by decide⟩⟩
    rcases hd with hd | hd <;> cases hd
    exact ⟨by decide, by decide, fun c hc => by cases hc⟩
  all_goals
    exact ⟨fun d hd => (by rcases hd with hd | hd <;> cases hd), by decide, fun h => absurd rfl h, fun h => absurd rfl h⟩

/-- R31, R33, R44, R58: the ends of the ranges are met: Cauto 600 and 6800, and the band's ends 525 and 7650. -/
theorem test_clock_bounds :
    cautoLow 640 = 600 ∧ cautoHigh 6400 = 6800 ∧ clampBand 600 3 0 = 525 ∧ clampBand 6800 3 9999 = 7650 := by decide

end Sys2Proof.Tests
end

section
/-! SUPPORT. Profile bytes and the CRC residue: what a byte written into a profile becomes (R2, R4), and which two bytes
bring the CRC register to 0000h (R20). -/

namespace Sys2Proof.Machine

/-! ## Bytes of numbers and words -/

theorem setByte_zero (b : Byte) (v : Nat) : setByte 0 b v = 256 * (v / 256) + b.toNat := by
  simp [setByte]; omega

theorem setByte_one (b : Byte) (v : Nat) :
    setByte 1 b v = 65536 * (v / 65536) + 256 * b.toNat + v % 256 := by
  simp [setByte]; omega

/-- The high byte of a two-byte number is replaced. -/
theorem setByte_one_of_lt (b : Byte) {v : Nat} (h : v < 65536) : setByte 1 b v = 256 * b.toNat + v % 256 := by
  rw [setByte_one]; omega

/-- The high byte of a three-byte number is replaced. -/
theorem setByte_two_of_lt (b : Byte) {v : Nat} (h : v < 16777216) : setByte 2 b v = 65536 * b.toNat + v % 65536 := by
  simp [setByte]; omega

theorem ofNat_setByte_one (b : Byte) (w : Word) :
    BitVec.ofNat 16 (setByte 1 b w.toNat) = b ++ w.extractLsb' 0 8 := by
  apply BitVec.eq_of_toNat_eq
  rw [setByte_one_of_lt b w.isLt, BitVec.toNat_append, ← Nat.shiftLeft_add_eq_or_of_lt (BitVec.isLt _),
    Nat.shiftLeft_eq]
  simp only [BitVec.toNat_ofNat, BitVec.extractLsb'_toNat, Nat.shiftRight_zero]
  have := b.isLt
  omega

theorem ofNat_setByte_zero (b : Byte) (w : Word) :
    BitVec.ofNat 16 (setByte 0 b w.toNat) = w.extractLsb' 8 8 ++ b := by
  apply BitVec.eq_of_toNat_eq
  rw [setByte_zero, BitVec.toNat_append, ← Nat.shiftLeft_add_eq_or_of_lt b.isLt, Nat.shiftLeft_eq]
  simp only [BitVec.toNat_ofNat, BitVec.extractLsb'_toNat, Nat.shiftRight_eq_div_pow]
  have := b.isLt
  have := w.isLt
  omega

/-! ## A byte written into a profile -/

/-- A byte lies below the gap limit's upper bound, so only the lower bound clamps it. -/
theorem clampNat_byte (lo : Nat) (b : Byte) (h : lo ≤ 255) : clampNat lo 255 b.toNat = max lo b.toNat := by
  rw [clampNat_eq h, Nat.min_eq_right (Nat.le_of_lt_succ b.isLt)]

theorem Encoding.ofByte_eq (b : Byte) :
    Encoding.ofByte b = if b.toNat = 0 then .fm else if b.toNat = 1 then .mfm else .gcr := by
  have h0 : b = 0 ↔ b.toNat = 0 := BitVec.toNat_inj.symm
  have h1 : b = 1 ↔ b.toNat = 1 := BitVec.toNat_inj.symm
  simp only [Encoding.ofByte, h0, h1]

theorem State.profileInUse_iff {s : State} {n : Fin 8} :
    s.profileInUse n = true ↔ ∃ v : Fin 8, (s.volumes[v]).isOpen = true ∧ (s.volumes[v]).profile = n := by
  simp [State.profileInUse, Vector.any_eq_true, Fin.exists_iff]

/-- R4: a byte written into a profile in use is discarded. -/
theorem execProfileWrite_inUse {s : State} {p : PortId} {out : List Byte} {n : Fin 8} {offset : Nat}
    (hw : s.writingAt p out 1 n.val offset) (hu : s.profileInUse n = true) (b : Byte) :
    execProfileWrite p b s = .next (s.wroteByte p out .refused) := by
  refine congrArg Host.Outcome.next (State.onWindowWrite_at hw _ ?_ rfl)
  simp [finOf_eq n rfl, hu]

/-- R2: a byte written into a profile no OPEN volume names is stored in it. -/
theorem execProfileWrite_free {s : State} {p : PortId} {out : List Byte} {n : Fin 8} {offset : Nat}
    (hw : s.writingAt p out 1 n.val offset) (hu : ¬ s.profileInUse n = true) {b : Byte} {f : Profile}
    (hf : (s.profiles[n]).write offset b = f) :
    execProfileWrite p b s = .next (({ s with profiles := s.profiles.set n f }).wroteByte p out .ok) := by
  refine congrArg Host.Outcome.next (State.onWindowWrite_at hw _ ?_ (by cases p <;> rfl))
  simp [finOf_eq n rfl, hu, ← hf]

/-- Settles O14: the volumes decide between the two branches of the write; the stored field is found by the split of
`Profile.write` on the byte's place. -/
theorem profileBytesAreClampedOrRefused : Obligations.ProfileBytesAreClampedOrRefused := by
  intro p s out n offset b hw
  refine ⟨fun hopen => execProfileWrite_inUse hw (State.profileInUse_iff.2 hopen) b, fun hclosed hr => ?_⟩
  have hfree : ¬ s.profileInUse n = true := by
    rw [State.profileInUse_iff]
    rintro ⟨v, ho, hp⟩
    exact hclosed v ho hp
  refine execProfileWrite_free hw hfree ?_
  obtain ⟨⟨-, hcell⟩, ⟨-, hrev⟩, -⟩ := hr
  generalize s.profiles[n] = f at hcell hrev ⊢
  have hcell : f.cellPeriod < 65536 := by omega
  have hrev : f.revPeriod < 16777216 := by omega
  unfold Profile.write
  split
  -- the encoding
  case h_1 => simp [Encoding.ofByte_eq]
  -- the two-byte cell period and the three-byte revolution period, clamped as wholes
  case h_2 => simp [setByte_one_of_lt b hcell, clampNat_eq]
  case h_3 => simp [setByte_zero, clampNat_eq]
  case h_4 => simp [setByte_two_of_lt b hrev, clampNat_eq]
  case h_5 => simp [setByte_one, clampNat_eq]
  case h_6 => simp [setByte_zero, clampNat_eq]
  -- the words of all values: the mark pattern and the CRC preset
  case h_7 | h_22 => simp [ofNat_setByte_one]
  case h_8 | h_23 => simp [ofNat_setByte_zero]
  -- the size-code position and the gap limit
  case h_19 => simp [Nat.lt_succ_iff]
  case h_21 => simp [clampNat_byte]
  -- no byte of the record
  case h_25 => simp_all
  -- the marks, stored as they are, and the clamped one-byte fields
  all_goals simp [clampNat_eq]

/-! ## The CRC register -/

/-- The bits of 1021h. -/
theorem crcPolynomial_bit {k : Nat} (hk : k < 16) :
    (0x1021#16 : Word).getLsbD k = decide (k = 0 ∨ k = 5 ∨ k = 12) := by
  interval_cases k <;> rfl

/-- R20: a bit entering the register shifts it left and, where it differs from the former top bit, inverts the bits of
1021h. -/
theorem crcBit_getLsbD (r : Word) (b : Bool) {k : Nat} (hk : k < 16) :
    (crcBit r b).getLsbD k =
      ((decide (k ≠ 0) && r.getLsbD (k - 1)) != ((r.getLsbD 15 != b) && decide (k = 0 ∨ k = 5 ∨ k = 12))) := by
  have hshift : (r <<< 1).getLsbD k = (decide (k ≠ 0) && r.getLsbD (k - 1)) := by
    simp only [BitVec.getLsbD_shiftLeft, hk]
    cases k <;> simp
  unfold crcBit
  split
  case isTrue h => rw [BitVec.getLsbD_xor, hshift, crcPolynomial_bit hk, h, Bool.true_and]
  case isFalse h => rw [hshift, Bool.eq_false_of_not_eq_true h, Bool.false_and, Bool.bne_false]

/-- 1021h is odd: the register's last bit after a step says whether the bit that entered differs from the former
top bit. -/
theorem crcBit_getMsbD_last (r : Word) (b : Bool) : (crcBit r b).getMsbD 15 = (r.getMsbD 0 != b) := by
  simpa [BitVec.getMsbD] using crcBit_getLsbD r b (k := 0)

/-- A bit equal to the top bit leaves a plain shift. -/
theorem crcBit_getMsbD_of_eq {r : Word} {b : Bool} (h : r.getMsbD 0 = b) {k : Nat} (hk : k < 15) :
    (crcBit r b).getMsbD k = r.getMsbD (k + 1) := by
  have htop : r.getLsbD 15 = b := by simpa [BitVec.getMsbD] using h
  have hbit : (crcBit r b).getLsbD (15 - k) = r.getLsbD (15 - (k + 1)) := by
    rw [crcBit_getLsbD r b (by omega), htop, bne_self_eq_false, Bool.false_and, Bool.bne_false, Nat.sub_sub,
      decide_eq_true (by omega), Bool.true_and]
  simpa [BitVec.getMsbD, Nat.lt_succ_of_lt hk, (by omega : k + 1 < 16)] using hbit

/-- R20: bits that all fit in the register bring it to 0000h exactly when they are its leading bits and the rest of it
is clear. From the last bit to the first: what is left to shift in ends in a clear bit, so by `crcBit_getMsbD_last` the bit
before was the register's top bit. -/
theorem crcBit_foldl_eq_zero_iff (bits : List Bool) (r : Word) (hlen : bits.length ≤ 16) :
    bits.foldl crcBit r = 0 ↔ ∀ k < 16, r.getMsbD k = bits.getD k false := by
  induction bits generalizing r with
  | nil =>
    exact ⟨fun h k _ => by simp_all, fun h => BitVec.eq_of_getMsbD_eq fun k hk => by simpa using h k hk⟩
  | cons b bits ih =>
    have hlen' : bits.length ≤ 15 := Nat.le_of_succ_le_succ hlen
    have hlast : bits.getD 15 false = false := List.getD_eq_default _ _ hlen'
    rw [List.foldl_cons, ih _ (by omega)]
    constructor
    · intro h
      have htop : r.getMsbD 0 = b := by
        have := h 15 (by omega)
        rw [crcBit_getMsbD_last, hlast] at this
        simpa using this
      intro k hk
      cases k with
      | zero => exact htop
      | succ k => rw [List.getD_cons_succ, ← h k (by omega), crcBit_getMsbD_of_eq htop (by omega)]
    · intro h k hk
      have htop : r.getMsbD 0 = b := h 0 (by omega)
      rcases Nat.lt_or_ge k 15 with hk' | hk'
      · rw [crcBit_getMsbD_of_eq htop hk', h (k + 1) (by omega), List.getD_cons_succ]
      · obtain rfl : k = 15 := by omega
        rw [crcBit_getMsbD_last, hlast, htop, bne_self_eq_false]

/-- A byte's bits in the order they enter the register (R20). -/
def bitsOf (v : Byte) : List Bool := [7, 6, 5, 4, 3, 2, 1, 0].map v.getLsbD

theorem crcByte_eq_foldl (r : Word) (v : Byte) : crcByte r v = (bitsOf v).foldl crcBit r := rfl

@[simp] theorem bitsOf_length (v : Byte) : (bitsOf v).length = 8 := rfl

theorem bitsOf_getD (v : Byte) {k : Nat} (hk : k < 8) : (bitsOf v).getD k false = v.getMsbD k := by
  interval_cases k <;> simp [bitsOf, BitVec.getMsbD]

theorem bitsOf_append_getD (hi lo : Byte) {k : Nat} (hk : k < 16) :
    (bitsOf hi ++ bitsOf lo).getD k false = (hi ++ lo).getMsbD k := by
  rw [BitVec.getMsbD_append]
  rcases Nat.lt_or_ge k 8 with h | h
  · rw [List.getD_append _ _ _ _ h, bitsOf_getD hi h]
    simp [h]
  · rw [List.getD_append_right _ _ _ _ h, bitsOf_length, bitsOf_getD lo (by omega)]
    simp [h]

/-- R20: the two bytes that bring the register to 0000h are its own, high byte first. -/
theorem crcByte_crcByte_eq_zero_iff (r : Word) (hi lo : Byte) :
    crcByte (crcByte r hi) lo = 0 ↔ hi ++ lo = r := by
  rw [crcByte_eq_foldl, crcByte_eq_foldl, ← List.foldl_append, crcBit_foldl_eq_zero_iff _ _ (by simp)]
  constructor
  · intro h
    refine BitVec.eq_of_getMsbD_eq fun k hk => ?_
    rw [h k hk, bitsOf_append_getD hi lo hk]
  · rintro rfl k hk
    rw [bitsOf_append_getD hi lo hk]

/-- Settles O50: the residue by the bits' induction, the order and the bit rule by the register's definition. -/
theorem crcResidueIsZeroExactlyForTheRightCrc : Obligations.CrcResidueIsZeroExactlyForTheRightCrc := by
  refine ⟨fun preset bytes hi lo => ?_, crcRun_nil, fun _ _ _ => rfl, fun r b k hk => crcBit_getLsbD r b hk,
    by decide +kernel, by decide +kernel, by decide +kernel⟩
  rw [crcRun_append, crcRun_cons, crcRun_cons, crcRun_nil, crcByte_crcByte_eq_zero_iff]

end Sys2Proof.Machine
end

section
/-! SUPPORT. Index edges that are not accepted: a glitch (R26), and an edge at a lane that does not watch its index input
(R23). -/

namespace Sys2Proof.Machine

theorem exec_indexEdge (i : Fin 4) (elapsed : Nat) (s : State) :
    exec (.indexEdge i elapsed) s = execIndexEdge i elapsed s := rfl

/-- R23: the index input is not watched in IDLE and DRAINING. -/
theorem Lane.watched_eq_false {l : Lane} (h : l.state = .idle ∨ l.state = .draining) : l.watched = false := by
  rcases h with h | h <;> simp [Lane.watched, h]

/-- R26: a glitch only raises its count. -/
theorem Lane.indexEdge_glitch {p : Profile} {presets : Vector Preset 16} {d : Descriptor} {l : Lane}
    (h : l.timing.classify p.revPeriod = .glitch) :
    l.indexEdge p presets d =
      { l with counts := { l.counts with indexGlitches := satInc 65535 l.counts.indexGlitches } } := by
  unfold Lane.indexEdge
  rw [h]

/-- R23: where the index input is not watched, of an index edge only its time passes. -/
theorem execIndexEdge_unwatched {s : State} {i : Fin 4} {elapsed : Nat}
    (h : ((s.elapse i elapsed).lanes[i]).watched = false) :
    execIndexEdge i elapsed s = .next (s.elapse i elapsed) := by
  unfold execIndexEdge
  dsimp only
  rw [h]

/-- Settles O26: the time before the edge ends in `State.laneAfter`; there the period decides that a watched edge is a
glitch, and the lane's state that an edge in IDLE or DRAINING is not taken. -/
theorem glitchesAndUnwatchedEdgesChangeNothingElse : Obligations.GlitchesAndUnwatchedEdgesChangeNothingElse := by
  intro s i elapsed
  constructor
  · intro d hwatch hseen n l htime hperiod
    obtain ⟨-, hglitch, -, -⟩ := Timing.classify_spec n l.timing
    rw [exec_indexEdge, execIndexEdge_watching hwatch htime, Lane.indexEdge_glitch (hglitch.2 ⟨hseen, hperiod⟩)]
    rfl
  · intro hstate htime
    have helapse := State.elapse_onTime htime
    have hunwatched : ((s.elapse i elapsed).lanes[i]).watched = false := by
      rw [helapse, State.setLane_get]
      exact Lane.watched_eq_false hstate
    rw [exec_indexEdge, execIndexEdge_unwatched hunwatched, helapse]

end Sys2Proof.Machine
end

section
/-! SUPPORT. The arithmetic of one interval (R40 to R44): the model's integer quotients are the manual's floors of exact
quotients, and its clamps are bounds by `max` and `min`. -/

namespace Sys2Proof.Machine

/-! ## The cell count -/

theorem Encoding.minCells_eq_smallest (e : Encoding) : e.minCells = e.smallest := by cases e <;> rfl

theorem Encoding.maxCells_eq_largest (e : Encoding) : e.maxCells = e.largest := by cases e <;> rfl

theorem Encoding.smallest_le_largest (e : Encoding) : e.smallest ≤ e.largest := by cases e <;> decide

/-- R40: the three quotients are floors, that of the bias toward minus infinity. -/
theorem rawCells_eq_floor (i c : Nat) (bias : ℤ) :
    rawCells i c bias =
      ⌊((16 * i + ⌊(c : ℚ) / 2⌋ - ⌊(bias * c : ℚ) / 16⌋ : ℤ) : ℚ) / c⌋ := by
  have hhalf : ⌊(c : ℚ) / 2⌋ = ((c / 2 : Nat) : ℤ) := Rat.floor_natCast_div_natCast c 2
  have hbias : ⌊(bias * c : ℚ) / 16⌋ = bias * c / 16 := mod_cast Rat.floor_intCast_div_natCast (bias * c) 16
  rw [hhalf, hbias, Rat.floor_intCast_div_natCast, rawCells]
  push_cast
  rfl

/-- R41: a raw count below the set gives its smallest member and one above it the largest. -/
theorem cellCount_eq (e : Encoding) (kraw : ℤ) :
    (cellCount e kraw : ℤ) = max (e.smallest : ℤ) (min (e.largest : ℤ) kraw) := by
  have hset := e.smallest_le_largest
  rw [cellCount, e.minCells_eq_smallest, e.maxCells_eq_largest]
  split <;> [skip; split] <;> omega

theorem inSet_iff (e : Encoding) (kraw : ℤ) :
    inSet e kraw = true ↔ (e.smallest : ℤ) ≤ kraw ∧ kraw ≤ e.largest := by
  simp [inSet, e.minCells_eq_smallest, e.maxCells_eq_largest]

/-! ## Deviation and confidence -/

theorem deviation_eq (i c k : Nat) : deviation i c k = 16 * i - k * c := by simp [deviation]

/-- R42: less than half a cell off, the confidence falls from 15 with the deviation. -/
theorem intervalConfidence_near {e : Encoding} {kraw : ℤ} {c : Nat} {d : ℤ}
    (hset : inSet e kraw = true) (hd : 2 * |d| < c) :
    (intervalConfidence e kraw c d : ℤ) = ⌊15 * ((c : ℚ) - 2 * |(d : ℚ)|) / c⌋ := by
  have hnear : 2 * d.natAbs < c := by rw [Int.abs_eq_natAbs] at hd; omega
  have hexact : 15 * ((c : ℚ) - 2 * |(d : ℚ)|) = ((15 * (c - 2 * d.natAbs) : Nat) : ℤ) := by
    push_cast [Nat.cast_sub hnear.le, Nat.cast_natAbs]
    rfl
  rw [hexact, Rat.floor_intCast_div_natCast, intervalConfidence, hset, decide_eq_true hnear, Bool.and_self, if_pos rfl,
    Int.natCast_ediv]

/-- R41, R42: outside the set, or half a cell off and more, the confidence is 0. -/
theorem intervalConfidence_far {e : Encoding} {kraw : ℤ} {c : Nat} {d : ℤ}
    (h : ¬ inSet e kraw = true ∨ (c : ℤ) ≤ 2 * |d|) : intervalConfidence e kraw c d = 0 := by
  refine if_neg fun hq => ?_
  obtain ⟨hset, hnear⟩ := Bool.and_eq_true_iff.1 hq
  have hnear := of_decide_eq_true hnear
  rcases h with hout | hfar
  · exact hout hset
  · rw [Int.abs_eq_natAbs] at hfar; omega

/-! ## Correction and band -/

/-- Truncation toward zero floors the quotient of the magnitude and puts the sign back. -/
theorem tdiv_natCast_eq_floor (d : ℤ) (m : Nat) :
    d.tdiv m = if 0 ≤ d then ⌊((|d| : ℤ) : ℚ) / m⌋ else -⌊((|d| : ℤ) : ℚ) / m⌋ := by
  rw [Rat.floor_intCast_div_natCast]
  split
  case isTrue h => rw [abs_of_nonneg h, Int.tdiv_eq_ediv_of_nonneg h]
  case isFalse h =>
    have hneg : d < 0 := Int.not_le.1 h
    rw [abs_of_neg hneg, ← Int.tdiv_eq_ediv_of_nonneg (by omega), Int.neg_tdiv, Int.neg_neg]

/-- R43: the deviation per cell over two to the gain plus one, truncated toward zero; none for gain 0. -/
theorem correction_eq (gain k : Nat) (d : ℤ) :
    correction gain k d =
      if gain = 0 then 0
      else if 0 ≤ d then ⌊((|d| : ℤ) : ℚ) / (k * 2 ^ (gain + 1))⌋ else -⌊((|d| : ℤ) : ℚ) / (k * 2 ^ (gain + 1))⌋ := by
  rw [correction, tdiv_natCast_eq_floor]
  push_cast
  rfl

theorem bandHalf_eq_floor (ceff tolerance : Nat) :
    (bandHalf ceff tolerance : ℤ) = ⌊(ceff : ℚ) * (tolerance + 1) / 32⌋ := by
  have hfloor := Rat.floor_natCast_div_natCast (ceff * (tolerance + 1)) 32
  push_cast at hfloor
  rw [hfloor, bandHalf]
  push_cast
  rfl

/-- Under the manual's tolerance codes the band's lower end is no negative number. -/
theorem bandHalf_le {ceff tolerance : Nat} (h : tolerance ≤ 3) : bandHalf ceff tolerance ≤ ceff := by
  have hle : ceff * (tolerance + 1) ≤ ceff * 4 := Nat.mul_le_mul_left ceff (by omega)
  rw [bandHalf]
  omega

/-- R44: a value outside the band takes the nearer end; by `bandHalf_le` nothing is lost in keeping Ccur as a natural
number. -/
theorem clampBand_eq {tolerance : Nat} (h : tolerance ≤ 3) (ceff : Nat) (v : ℤ) :
    (clampBand ceff tolerance v : ℤ) =
      max (ceff - bandHalf ceff tolerance : ℤ) (min (ceff + bandHalf ceff tolerance) v) := by
  have hlow := bandHalf_le (ceff := ceff) h
  rw [clampBand]
  split <;> [skip; split] <;> omega

/-! ## The whole computation -/

/-- Settles O31: the interval is computed in the order of R40 to R44, and each part is the lemma of its rule. -/
theorem intervalArithmeticIsExact : Obligations.IntervalArithmeticIsExact := by
  intro e x ceff i _ htol c y d inside step correction half
  have hd : deviation i x.ccur y.k = d := deviation_eq i x.ccur y.k
  have hq : y.confidence = intervalConfidence e y.kraw x.ccur d := by rw [← hd]; rfl
  have hccur : y.ccur = clampBand ceff x.tolerance (x.ccur + Machine.correction x.gain y.k d) := by rw [← hd]; rfl
  refine ⟨rawCells_eq_floor i x.ccur x.bias, cellCount_eq e y.kraw, fun hin hnear => ?_, fun hfar => ?_, ?_, ?_⟩
  · rw [hq]
    exact intervalConfidence_near ((inSet_iff e y.kraw).2 hin) hnear
  · rw [hq]
    exact intervalConfidence_far (hfar.imp_left (mt (inSet_iff e y.kraw).1))
  · rw [hq]
    exact intervalConfidence_le e y.kraw x.ccur d
  · rw [hccur, clampBand_eq htol, bandHalf_eq_floor, correction_eq]

end Sys2Proof.Machine
end

section
/-! SUPPORT. Grants of attempts for known sectors (R103 to R106): what a grant that is due hands to the engine, and how
each kind of known sector is classified. -/

namespace Sys2Proof.Machine

theorem exec_grant (s : State) : exec .grant s = .next s.grantOne := rfl

/-! ## The grant that is due -/

/-- R89: the lanes by number, seen from one of them: the lower ones stand ahead of it. -/
theorem fixedOrder_split (l : Fin 4) :
    ∃ ahead behind, ([0, 1, 2, 3] : List (Fin 4)) = ahead ++ l :: behind ∧ ∀ j ∈ ahead, j < l := by
  fin_cases l
  · exact ⟨[], [1, 2, 3], rfl, by decide⟩
  · exact ⟨[0], [2, 3], rfl, by decide⟩
  · exact ⟨[0, 1], [3], rfl, by decide⟩
  · exact ⟨[0, 1, 2], [], rfl, by decide⟩

/-- R89, R90: a lane with a non-empty queue wins when every lane ahead of it in the mode's order has an empty one. -/
theorem State.winner_eq_some {s : State} {l : Fin 4} (hq : (s.lanes[l]).queue ≠ [])
    (hfixed : s.settings.rotating = false → ∀ j : Fin 4, j < l → (s.lanes[j]).queue = [])
    (hrotating : s.settings.rotating = true →
      ∃ ahead behind, s.arbiter.order = ahead ++ l :: behind ∧ ∀ j ∈ ahead, (s.lanes[j]).queue = []) :
    s.winner = some l := by
  have horder : ∃ ahead behind,
      (if s.settings.rotating = true then s.arbiter.order else [0, 1, 2, 3]) = ahead ++ l :: behind
        ∧ ∀ j ∈ ahead, (s.lanes[j]).queue = [] := by
    cases hr : s.settings.rotating with
    | false =>
      obtain ⟨ahead, behind, hsplit, hlower⟩ := fixedOrder_split l
      exact ⟨ahead, behind, hsplit, fun j hj => hfixed hr j (hlower j hj)⟩
    | true => exact hrotating hr
  obtain ⟨ahead, behind, hsplit, hempty⟩ := horder
  exact List.find?_eq_some_iff_append.2
    ⟨by simpa using hq, ahead, behind, hsplit, fun j hj => by simpa using hempty j hj⟩

/-- R88, R91, R92: the arbiter before a grant that is due has the granted lane as its owner, and counts on to the
arbiter of `State.granted`. -/
theorem State.burst_of_grants {s : State} {l : Fin 4} {a : Attempt} {rest : List Attempt} (h : s.Grants l a rest) :
    ∃ arb, s.burst = some (l, arb) ∧ arb.afterGrant rest.length = (s.granted l rest).arbiter := by
  obtain ⟨-, hq, howner | ⟨hnone, hfixed, hrotating⟩⟩ := h
  · refine ⟨s.arbiter, by simp only [State.burst, howner], ?_⟩
    simp only [Arbiter.afterGrant, Arbiter.endBurst, State.granted, howner, List.length_eq_zero_iff, reduceCtorEq,
      if_false]
    split <;> simp [*]
  · have hwin : s.winner = some l := State.winner_eq_some (hq ▸ List.cons_ne_nil a rest) hfixed hrotating
    refine ⟨_, by simp only [State.burst, hnone, hwin]; rfl, ?_⟩
    simp only [Arbiter.afterGrant, Arbiter.endBurst, State.granted, hnone, List.length_eq_zero_iff, if_true,
      Nat.zero_add]
    split <;> simp [*]

/-- R85, R91: a grant that is due moves the head of the granted lane's queue into classification. -/
theorem State.grantOne_of_grants {s : State} {l : Fin 4} {a : Attempt} {rest : List Attempt}
    (h : s.Grants l a rest) : s.grantOne = (s.granted l rest).receive a := by
  obtain ⟨arb, hburst, harb⟩ := State.burst_of_grants h
  obtain ⟨hidle, hq, -⟩ := h
  have hfree : ¬ s.engine.busy = true := by simp [Engine.busy, hidle]
  simp only [State.grantOne, if_neg hfree, hburst, hq, harb]
  rfl

/-! ## Released sectors -/

/-- With distinct keys a sector is released exactly when some record of its track holds its offset (R99, R104). -/
theorem State.isReleased_iff {s : State} (hk : s.KeysDistinct) (k : SectorKey) :
    s.isReleased k = true ↔
      ∃ t ∈ s.tracks, t.2.key = k.track
        ∧ t.2.releasedSet.getLsbD (k.sector - (s.volumes[k.track.volume]).firstSector) = true := by
  unfold State.isReleased
  constructor
  · intro h
    split at h
    next j t hf =>
      obtain ⟨hkey, hmem⟩ := State.findTrack_some hf
      exact ⟨(j, t), hmem, hkey, h⟩
    next => cases h
  · rintro ⟨⟨j, t⟩, hmem, hkey, hbit⟩
    rw [← hkey, State.findTrack_of_mem hk hmem]
    exact hbit

/-! ## Classification -/

/-- R104, R105: an attempt for a released sector is surplus. -/
theorem State.receive_released {s : State} {a : Attempt} (hr : s.isReleased a.key = true) :
    s.receive a = s.discardSurplus a.key.track.volume none := by
  rw [State.receive, if_pos hr]

/-- R104 to R106: an attempt for a sector that has an entry and is not released is surplus, mismatched or merged. -/
theorem State.receive_known {s : State} {a : Attempt} {i : Nat} {e : Entry} (hr : ¬ s.isReleased a.key = true)
    (hf : s.findEntry a.key = some (i, e)) :
    s.receive a =
      if e.status = .settled ∨ e.status = .conflict then s.discardSurplus a.key.track.volume (some (i, e))
      else if a.dataLength ≠ e.dataLength ∨ a.deleted ≠ e.deleted then s.discardMismatch i e
      else s.startMerge i e a := by
  simp only [State.receive, if_neg hr, hf]

/-- An OPEN or PROVISIONAL entry is neither SETTLED nor in CONFLICT. -/
theorem Status.not_settled_or_conflict {x : Status} (h : x = .opened ∨ x = .provisional) :
    ¬ (x = .settled ∨ x = .conflict) := by
  rcases h with rfl | rfl <;> decide

/-- Settles O42: a grant that is due classifies the attempt in a state with the old tables, where the distinct keys make
the released sets and the entries of the statement the ones that are found. -/
theorem grantsClassifyKnownSectors : Obligations.GrantsClassifyKnownSectors := by
  intro s l a rest hg hk t v x up released
  have hreleased : t.isReleased a.key = true ↔ released := State.isReleased_iff (s := t) hk a.key
  have hexec : ∀ u, t.receive a = u → exec .grant s = .next u := by
    rintro u rfl
    rw [exec_grant, State.grantOne_of_grants hg]
  refine ⟨fun hr => hexec _ (State.receive_released (hreleased.2 hr)), fun i e hmem hkey hr => ?_⟩
  have hfind : t.findEntry a.key = some (i, e) := hkey ▸ State.findEntry_of_mem (s := t) hk hmem
  have hknown := State.receive_known (mt hreleased.1 hr) hfind
  refine ⟨fun hclosed => ?_, fun htakes => ?_⟩
  · rw [if_pos hclosed] at hknown
    exact hexec _ hknown
  · rw [if_neg (Status.not_settled_or_conflict htakes)] at hknown
    refine ⟨fun hdiffers => ?_, fun hlen hdel => ?_⟩
    · rw [if_pos hdiffers] at hknown
      exact hexec _ hknown
    · rw [if_neg (not_or.2 ⟨not_not.2 hlen, not_not.2 hdel⟩)] at hknown
      exact hexec _ hknown

end Sys2Proof.Machine
end

section
/-! SUPPORT. OPEN VOLUME (R96) and LOCATE (R112): the answer to each test in its order, and the answer when all are
passed. -/

namespace Sys2Proof.Machine

/-! ## OPEN VOLUME -/

theorem openInRange_iff {cylinders heads first perTrack : Nat} :
    openInRange cylinders heads first perTrack = true ↔
      (1 ≤ cylinders ∧ cylinders ≤ 1024) ∧ (1 ≤ heads ∧ heads ≤ 8) ∧ (1 ≤ perTrack ∧ perTrack ≤ 64)
        ∧ first + perTrack ≤ 256 := by
  simp [openInRange]
  omega

section openVolume

variable {s : State} {volume profile cylinders heads first perTrack : Nat}

/-- R96: an argument out of its range. -/
theorem State.openVolume_outOfRange
    (h : 7 < volume ∨ 7 < profile ∨ ¬ openInRange cylinders heads first perTrack = true) :
    s.openVolume volume profile cylinders heads first perTrack = ⟨.range, [], s⟩ := by
  unfold State.openVolume
  split
  next v n hv hn =>
    have hvolume := finOf_some hv
    have hprofile := finOf_some hn
    have hgeometry : ¬ openInRange cylinders heads first perTrack = true := by
      rcases h with h | h | h
      · omega
      · omega
      · exact h
    simp [hgeometry]
  next => rfl

variable {v n : Fin 8}

/-- R96: a volume that is not FREE. -/
theorem State.openVolume_notFree (h : openInRange cylinders heads first perTrack = true)
    (hopen : (s.volumes[v]).isOpen = true) :
    s.openVolume v.val n.val cylinders heads first perTrack = ⟨.refused, [], s⟩ := by
  simp [-Fin.getElem_fin, State.openVolume, finOf_eq v rfl, finOf_eq n rfl, h, hopen]

/-- R96: a FREE volume is opened. -/
theorem State.openVolume_free (h : openInRange cylinders heads first perTrack = true)
    (hfree : (s.volumes[v]).isOpen = false) :
    s.openVolume v.val n.val cylinders heads first perTrack =
      ⟨.ok, [], s.setVolume v ⟨true, n, cylinders, heads, first, perTrack, 0, 0, 0, 0, 0, 0⟩⟩ := by
  simp [-Fin.getElem_fin, State.openVolume, finOf_eq v rfl, finOf_eq n rfl, h, hfree]

end openVolume

/-- R4: a volume that becomes OPEN puts the profile it names in use. -/
theorem State.profileInUse_setVolume (s : State) (v : Fin 8) {x : Volume} (ho : x.isOpen = true) :
    (s.setVolume v x).profileInUse x.profile = true :=
  State.profileInUse_iff.2 ⟨v, by rw [State.setVolume_get, ho], by rw [State.setVolume_get]⟩

@[simp] theorem State.answered_profileInUse (s : State) (p : PortId) (r : ResultCode) (bytes : List Byte) (n : Fin 8) :
    (s.answered p r bytes).profileInUse n = s.profileInUse n := by simp [State.profileInUse]

/-- An OPEN VOLUME taken answers with its reply. -/
theorem exec_openVolume {p : PortId} {volume profile heads first perTrack : Byte} {cylinders : Word} {s t : State}
    {r : ResultCode} {bytes : List Byte} (hready : s.ready p)
    (hreply : s.openVolume volume.toNat profile.toNat cylinders.toNat heads.toNat first.toNat perTrack.toNat =
      ⟨r, bytes, t⟩) :
    exec (.openVolume p volume profile cylinders heads first perTrack) s = .next (t.answered p r bytes) :=
  congrArg Host.Outcome.next (State.onCommand_answers hready _ hreply)

/-- Settles O16: the ranges decide first, then the volume's state; the opened volume is the one that names the
profile. -/
theorem openVolumeTestsAndOpens : Obligations.OpenVolumeTestsAndOpens := by
  intro p volume profile cylinders heads first perTrack s hready
  constructor
  · intro hbad
    refine exec_openVolume hready (State.openVolume_outOfRange ?_)
    rw [openInRange_iff]
    omega
  · intro v n hv hn hc hc' hh hh' ht ht' hlast
    have hrange : openInRange cylinders.toNat heads.toNat first.toNat perTrack.toNat = true :=
      openInRange_iff.2 ⟨⟨hc, hc'⟩, ⟨hh, hh'⟩, ⟨ht, ht'⟩, hlast⟩
    constructor
    · intro hopen
      refine exec_openVolume hready ?_
      rw [hv, hn]
      exact State.openVolume_notFree hrange hopen
    · intro hfree
      refine ⟨_, exec_openVolume hready ?_, rfl, ?_⟩
      · rw [hv, hn]
        exact State.openVolume_free hrange hfree
      · rw [State.answered_profileInUse]
        exact State.profileInUse_setVolume s v (by rfl)

/-! ## LOCATE -/

theorem Volume.holdsSector_iff {x : Volume} {sector : Nat} : x.holdsSector sector = true ↔ x.Holds sector := by
  simp [Volume.holdsSector, Volume.Holds]

section locate

variable {s : State} {cylinder head sector : Nat}

/-- R112: a volume number out of range. -/
theorem State.locate_noVolume {volume : Nat} (h : 7 < volume) :
    s.locate volume cylinder head sector = ⟨.range, [0xFF, 0xFF, 0xFF], s⟩ := by
  simp [State.locate, finOf_none (k := 8) h]

variable {v : Fin 8}

/-- R112: a volume that is not OPEN. -/
theorem State.locate_notOpen (h : (s.volumes[v]).isOpen = false) :
    s.locate v.val cylinder head sector = ⟨.refused, [0xFF, 0xFF, 0xFF], s⟩ := by
  simp [-Fin.getElem_fin, State.locate, finOf_eq v rfl, h]

/-- R112: a sector outside the volume's geometry. -/
theorem State.locate_outside (hopen : (s.volumes[v]).isOpen = true)
    (h : (s.volumes[v]).cylinders ≤ cylinder ∨ (s.volumes[v]).heads ≤ head ∨ sector < (s.volumes[v]).firstSector
      ∨ (s.volumes[v]).firstSector + (s.volumes[v]).sectorsPerTrack ≤ sector) :
    s.locate v.val cylinder head sector = ⟨.range, [0xFF, 0xFF, 0xFF], s⟩ := by
  have hout : (decide (cylinder < (s.volumes[v]).cylinders) && decide (head < (s.volumes[v]).heads)
      && (s.volumes[v]).holdsSector sector) = false := by
    rw [Bool.eq_false_iff]
    simp only [ne_eq, Bool.and_eq_true, decide_eq_true_eq, Volume.holdsSector_iff, Volume.Holds]
    omega
  simp only [State.locate, finOf_eq v rfl, hopen, hout, Bool.not_true, Bool.not_false, Bool.false_eq_true, if_false,
    if_true]

/-- R112: inside an OPEN volume's geometry the sector table answers. -/
theorem State.locate_inside (hopen : (s.volumes[v]).isOpen = true) (hc : cylinder < (s.volumes[v]).cylinders)
    (hh : head < (s.volumes[v]).heads) (hs : (s.volumes[v]).Holds sector) :
    (∀ i e, s.findEntry ⟨⟨v, cylinder, head⟩, sector⟩ = some (i, e) →
        s.locate v.val cylinder head sector = ⟨.ok, bytesBE 2 i ++ bytesBE 1 e.status.code, s⟩)
      ∧ (s.findEntry ⟨⟨v, cylinder, head⟩, sector⟩ = none →
          s.locate v.val cylinder head sector =
            ⟨.notFound, [0xFF, 0xFF] ++ bytesBE 1 (if s.isReleased ⟨⟨v, cylinder, head⟩, sector⟩ then 5 else 0),
              s⟩) := by
  have hs := Volume.holdsSector_iff.2 hs
  constructor
  · intro i e hf
    simp [-Fin.getElem_fin, State.locate, finOf_eq v rfl, hopen, hc, hh, hs, hf]
  · intro hf
    simp [-Fin.getElem_fin, State.locate, finOf_eq v rfl, hopen, hc, hh, hs, hf]

end locate

/-- A LOCATE taken answers with its reply. -/
theorem exec_locate {p : PortId} {volume head sector : Byte} {cylinder : Word} {s t : State} {r : ResultCode}
    {bytes : List Byte} (hready : s.ready p)
    (hreply : s.locate volume.toNat cylinder.toNat head.toNat sector.toNat = ⟨r, bytes, t⟩) :
    exec (.locate p volume cylinder head sector) s = .next (t.answered p r bytes) :=
  congrArg Host.Outcome.next (State.onCommand_answers hready _ hreply)

/-- Settles O21: each test is a lemma of its own; past them, the distinct keys make the entry of the statement the one
that is found, and with no entry the released set decides between RELEASED and ABSENT. -/
theorem locateAnswersFromTheTables : Obligations.LocateAnswersFromTheTables := by
  intro p volume cylinder head sector s hready run
  refine ⟨fun h => exec_locate hready (State.locate_noVolume h), fun v hv => ?_⟩
  intro x k
  have hrun : ∀ r bytes, s.locate v.val cylinder.toNat head.toNat sector.toNat = ⟨r, bytes, s⟩ →
      run = .next (s.answered p r bytes) :=
    fun r bytes hreply => exec_locate hready (by rw [hv, hreply])
  refine ⟨fun h => hrun _ _ (State.locate_notOpen h), fun hopen hout => hrun _ _ (State.locate_outside hopen hout),
    fun hopen hc hh hfirst hlast hk => ?_⟩
  obtain ⟨hfound, habsent⟩ := State.locate_inside hopen hc hh ⟨hfirst, hlast⟩
  refine ⟨fun i e hmem hkey => ?_, fun hno => ?_⟩
  · have hfind : s.findEntry k = some (i, e) := hkey ▸ State.findEntry_of_mem hk hmem
    rw [hrun _ _ (hfound i e hfind)]
    cases e.status <;> rfl
  · have hnotFound := hrun _ _ (habsent (State.findEntry_none.2 hno))
    constructor
    · intro hreleased
      rw [hnotFound, if_pos ((State.isReleased_iff hk k).2 hreleased)]
      rfl
    · intro hclear
      have hnot : ¬ s.isReleased k = true := by
        rw [State.isReleased_iff hk]
        rintro ⟨t, hmem, hkey, hbit⟩
        exact absurd hbit (Bool.eq_false_iff.1 (hclear t hmem hkey))
      rw [hnotFound, if_neg hnot]
      rfl

end Sys2Proof.Machine
end

section
/-! SUPPORT. The update of one candidate list by one byte (R123 to R129): the rules of ranked lists, what `updateList` gives in
each case, and the obligation they settle. -/

namespace Sys2Proof.Machine

/-! ## Ranked lists -/

/-- R125: a ranked list stays ranked when candidates are removed. -/
theorem Ranked.sublist {l l' : List Candidate} (h : Ranked l) (hs : l'.Sublist l) : Ranked l' := by
  obtain ⟨hlength, hvalues, hweights, horder⟩ := h
  exact ⟨hs.length_le.trans hlength, hvalues.sublist (hs.map _), fun c hc => hweights c (hs.subset hc),
    horder.sublist hs⟩

theorem placeCandidate_ordered (c : Candidate) {l : List Candidate} (h : l.Pairwise fun a b => b.weight ≤ a.weight) :
    (placeCandidate c l).Pairwise fun a b => b.weight ≤ a.weight := by
  rw [placeCandidate_eq h, List.pairwise_append, List.pairwise_cons]
  refine ⟨h.filter _, ⟨fun b hb => ?_, h.filter _⟩, fun a ha b hb => ?_⟩
  · have hbelow : b.weight < c.weight := by simpa using (List.mem_filter.1 hb).2
    exact hbelow.le
  · have habove : c.weight ≤ a.weight := by simpa using (List.mem_filter.1 ha).2
    obtain rfl | hb := List.mem_cons.1 hb
    · exact habove
    · have hbelow : b.weight < c.weight := by simpa using (List.mem_filter.1 hb).2
      omega

/-- R125, R128: a new value with a weight in range takes its place in a ranked list that has room. -/
theorem Ranked.place {c : Candidate} {l : List Candidate} (h : Ranked l) (hroom : l.length < 3)
    (hnew : ∀ x ∈ l, x.value ≠ c.value) (hc : 1 ≤ c.weight ∧ c.weight ≤ 255) : Ranked (placeCandidate c l) := by
  obtain ⟨-, hvalues, hweights, horder⟩ := h
  have hperm := placeCandidate_perm c l
  refine ⟨by rw [placeCandidate_length]; omega, ?_, fun x hx => ?_, placeCandidate_ordered c horder⟩
  · rw [(hperm.map _).nodup_iff, List.map_cons, List.nodup_cons]
    refine ⟨fun hmem => ?_, hvalues⟩
    obtain ⟨x, hx, hxv⟩ := List.mem_map.1 hmem
    exact hnew x hx hxv
  · obtain rfl | hx := List.mem_cons.1 (hperm.mem_iff.1 hx)
    · exact hc
    · exact hweights x hx

/-- R126: halving keeps a list ranked. -/
theorem Ranked.halveList {l : List Candidate} (h : Ranked l) : Ranked (halveList l) := by
  obtain ⟨hlength, hvalues, hweights, horder⟩ := h
  refine ⟨(List.length_filter_le _ _).trans (by simpa using hlength), ?_, fun c hc => ?_, ?_⟩
  · refine List.Nodup.sublist (List.filter_sublist.map _) ?_
    simpa [Function.comp_def] using hvalues
  · obtain ⟨hmap, hne⟩ := List.mem_filter.1 hc
    obtain ⟨x, hx, rfl⟩ := List.mem_map.1 hmap
    have hle := (hweights x hx).2
    simp only [bne_iff_ne] at hne
    dsimp only
    omega
  · exact (List.pairwise_map.2 (horder.imp fun hle => Nat.div_le_div_right hle)).filter _

theorem halveList_eq (l : List Candidate) :
    halveList l = (l.map fun x => ⟨x.value, x.weight / 2⟩).filter fun x => decide (x.weight ≠ 0) := by
  simp only [halveList, ← bne_iff_ne, Bool.decide_eq_true]

theorem mem_halveList {v : Byte} {u : Nat} {l : List Candidate} (h : Candidate.mk v u ∈ l) (hu : 2 ≤ u) :
    Candidate.mk v (u / 2) ∈ halveList l := by
  refine List.mem_filter.2 ⟨List.mem_map.2 ⟨_, h, rfl⟩, ?_⟩
  simp only [bne_iff_ne]
  omega

/-- Halving commutes with a selection by value. -/
theorem filter_halveList (p : Byte → Bool) (l : List Candidate) :
    (halveList l).filter (fun x => p x.value) = halveList (l.filter fun x => p x.value) := by
  simp only [halveList, List.filter_map, List.filter_filter, Bool.and_comm, Function.comp_def]

/-- With distinct values the list gives a value the weight of its candidate. -/
theorem Ranked.weightOf_eq {v : Byte} {u : Nat} {l : List Candidate} (h : Ranked l) (hm : Candidate.mk v u ∈ l) :
    weightOf v l = u := by
  obtain ⟨-, hvalues, -, -⟩ := h
  unfold weightOf
  split
  next c hc =>
    have hcv : c.value = v := by simpa using List.find?_some hc
    rw [List.inj_on_of_nodup_map hvalues (List.mem_of_find?_eq_some hc) hm hcv]
  next hnone => simpa using List.find?_eq_none.1 hnone _ hm

/-! ## The update, case by case -/

/-- R124. -/
@[simp] theorem updateList_zero (v : Byte) (l : List Candidate) : updateList v 0 l = l := if_pos rfl

/-- R126, R127: a present value is increased, in the halved list when the sum would pass 255. -/
theorem updateList_present {v : Byte} {w u : Nat} {l : List Candidate} (h : Ranked l) (hw : 1 ≤ w)
    (hm : Candidate.mk v u ∈ l) :
    updateList v w l = increaseCandidate v w (if 255 < u + w then halveList l else l) := by
  have hany : l.any (fun c => c.value == v) = true := List.any_eq_true.2 ⟨_, hm, beq_self_eq_true v⟩
  rw [updateList, if_neg (Nat.ne_of_gt hw), if_pos hany, h.weightOf_eq hm]

/-- R128, R129: an absent value is admitted or contests the last place. -/
theorem updateList_absent {v : Byte} {w : Nat} {l : List Candidate} (hw : 1 ≤ w) (hv : ∀ x ∈ l, x.value ≠ v) :
    updateList v w l = admitCandidate v w l := by
  have hany : ¬ l.any (fun c => c.value == v) = true := by simpa using hv
  rw [updateList, if_neg (Nat.ne_of_gt hw), if_neg hany]

/-- R127: the increased candidate takes its place among the others. -/
theorem Ranked.increaseCandidate_eq {v : Byte} {u : Nat} {l : List Candidate} (h : Ranked l)
    (hm : Candidate.mk v u ∈ l) (w : Nat) :
    increaseCandidate v w l = placeCandidate ⟨v, u + w⟩ (l.filter fun x => decide (x.value ≠ v)) := by
  simp only [increaseCandidate, h.weightOf_eq hm, ← bne_iff_ne, Bool.decide_eq_true]

theorem Ranked.increaseCandidate {v : Byte} {w u : Nat} {l : List Candidate} (h : Ranked l)
    (hm : Candidate.mk v u ∈ l) (hw : 1 ≤ w) (hsum : u + w ≤ 255) : Ranked (increaseCandidate v w l) := by
  rw [h.increaseCandidate_eq hm]
  have hshorter : (l.filter fun x => decide (x.value ≠ v)).length < l.length :=
    List.length_filter_lt_length_iff_exists.2 ⟨_, hm, by simp⟩
  refine (h.sublist List.filter_sublist).place (hshorter.trans_le h.1) (fun x hx => ?_) ⟨by dsimp only; omega, hsum⟩
  simpa using (List.mem_filter.1 hx).2

/-- R128: an absent value joins a list that has room. -/
theorem admitCandidate_of_room (v : Byte) (w : Nat) {l : List Candidate} (hroom : l.length < 3) :
    admitCandidate v w l = placeCandidate ⟨v, w⟩ l := by
  unfold admitCandidate
  split
  · simp at hroom
  · rfl

theorem Ranked.admitCandidate {v : Byte} {w : Nat} {l : List Candidate} (h : Ranked l) (hv : ∀ x ∈ l, x.value ≠ v)
    (hw : 1 ≤ w ∧ w ≤ 255) : Ranked (admitCandidate v w l) := by
  by_cases hroom : l.length < 3
  · rw [admitCandidate_of_room v w hroom]
    exact h.place hroom hv hw
  · obtain ⟨a, b, t, rfl⟩ := List.length_eq_three.1 (Nat.le_antisymm h.1 (Nat.le_of_not_lt hroom))
    have hfirst : Ranked [a, b] := h.sublist (List.sublist_append_left [a, b] [t])
    rw [Machine.admitCandidate]
    split
    · refine hfirst.place (Nat.lt_succ_self 2) (fun x hx => hv x ?_) (by dsimp only; omega)
      exact List.mem_append_left [t] hx
    · split
      · exact hfirst
      · obtain ⟨hlength, hvalues, hweights, horder⟩ := h
        refine ⟨hlength, hvalues, ?_, ?_⟩
        · simp only [List.mem_cons, List.not_mem_nil, or_false, forall_eq_or_imp, forall_eq] at hweights ⊢
          omega
        · simp only [List.pairwise_cons, List.mem_cons, List.not_mem_nil, or_false, forall_eq_or_imp, forall_eq,
            false_imp_iff, implies_true, List.Pairwise.nil, and_true] at horder ⊢
          omega

/-- R125: one byte of weight at most 30 keeps a list ranked. -/
theorem Ranked.updateList {v : Byte} {w : Nat} {l : List Candidate} (h : Ranked l) (hw : w ≤ 30) :
    Ranked (updateList v w l) := by
  obtain rfl | hpos := Nat.eq_zero_or_pos w
  · rwa [updateList_zero]
  by_cases hv : ∀ x ∈ l, x.value ≠ v
  · rw [updateList_absent hpos hv]
    exact h.admitCandidate hv ⟨hpos, by omega⟩
  · push Not at hv
    obtain ⟨⟨_, u⟩, hm, rfl⟩ := hv
    have ⟨_, _, hweights, _⟩ := h
    have hu : u ≤ 255 := (hweights _ hm).2
    rw [updateList_present h hpos hm]
    split
    · exact h.halveList.increaseCandidate (mem_halveList hm (by omega)) hpos (by omega)
    · exact h.increaseCandidate hm hpos (by omega)

/-- Settles O44: each case's equation gives a `placeCandidate`, which in a list in order of weight is the split of the
statement; a sum beyond 255 with a weight of at most 30 means that the value itself outlives the halving. -/
theorem candidateListsAreUpdatedByRank : Obligations.CandidateListsAreUpdatedByRank := by
  intro v w l h hw place
  have hplace : ∀ (c : Candidate) {others : List Candidate}, Ranked others → placeCandidate c others = place c others :=
    fun _ _ ⟨_, _, _, horder⟩ => placeCandidate_eq horder
  refine ⟨h.updateList hw, ?_, fun hpos => ⟨fun u hm hsum => ?_, fun u hm hsum => ?_, fun hv => ?_⟩⟩
  · rintro rfl
    exact updateList_zero v l
  · rw [updateList_present h hpos hm, if_neg (by omega), h.increaseCandidate_eq hm]
    exact hplace _ (h.sublist List.filter_sublist)
  · rw [updateList_present h hpos hm, if_pos hsum,
      h.halveList.increaseCandidate_eq (mem_halveList hm (by omega)),
      filter_halveList fun x => decide (x ≠ v), ← halveList_eq]
    exact hplace _ (h.sublist List.filter_sublist).halveList
  · rw [updateList_absent hpos hv]
    refine ⟨fun hroom => ?_, ?_⟩
    · rw [admitCandidate_of_room v w hroom]
      exact hplace _ h
    · rintro a b t rfl
      have hfirst : Ranked [a, b] := h.sublist (List.sublist_append_left [a, b] [t])
      refine ⟨fun hlt => ?_, fun heq => ?_, fun hlt => ?_⟩
      · rw [admitCandidate, if_pos hlt]
        exact hplace _ hfirst
      · rw [admitCandidate, if_neg (by omega), if_pos heq.symm]
      · rw [admitCandidate, if_neg (by omega), if_neg (by omega)]

end Sys2Proof.Machine
end

section
/-! SUPPORT. The evaluation's courses (R139, R141): what a vote does with and without a witness (R142, R143, R145, R146),
and the obligation they settle. -/

namespace Sys2Proof.Machine

/-- R139: an image is good when the run over the marks in force, the entry's mark and its bytes leaves 0000h. -/
theorem Profile.imageGood_iff (p : Profile) (deleted : Bool) (image : List Byte) :
    p.imageGood deleted image = true
      ↔ crcRun p.crcPreset
          (List.replicate (if p.encoding = .gcr then 0 else p.crcMarkCount) p.markValue
            ++ (if deleted then p.deletedMark else p.dataMark) :: image) = 0 := by
  have hmarks : p.crcMarksInForce = if p.encoding = .gcr then 0 else p.crcMarkCount := by
    unfold Profile.crcMarksInForce
    cases p.encoding <;> rfl
  rw [Profile.imageGood, Profile.fieldGood, beq_iff_eq, hmarks, Profile.entryMark]

section course
variable {e : Entry} {p : Profile} {x : Slot} {margin depth quorum : Nat}

/-- R138, R139: the vote that `Entry.decide` takes for good has no blank position and checks. -/
theorem goodVote_iff {deleted : Bool} {lists : List (List Candidate)} :
    (blankCount lists == 0 && p.imageGood deleted (votedImage lists)) = true
      ↔ (∀ l ∈ lists, l ≠ []) ∧ p.imageGood deleted (votedImage lists) = true := by
  rw [Bool.and_eq_true, beq_iff_eq, blankCount_eq_zero]

/-- R141: with a witness, the vote is weighed. -/
theorem Entry.decide_witness {w : List Byte} (hw : x.witness = some w) :
    e.decide p x margin depth quorum =
      e.weighVote quorum w (votedImage x.lists)
        (blankCount x.lists == 0 && p.imageGood e.deleted (votedImage x.lists)) := by
  simp only [Entry.decide, hw]

/-- R146: without a witness, a vote with a blank position is only the image. -/
theorem Entry.decide_blank (hw : x.witness = none) (hblank : ¬ ∀ l ∈ x.lists, l ≠ []) :
    e.decide p x margin depth quorum = e.unchanged none (votedImage x.lists) := by
  have hcount : (blankCount x.lists == 0) = false := by rwa [beq_eq_false_iff_ne, ne_eq, blankCount_eq_zero]
  simp only [Entry.decide, hw, hcount, Bool.not_false, if_true]

/-- R141: without a witness, a good vote forms one. -/
theorem Entry.decide_good (hw : x.witness = none) (hfull : ∀ l ∈ x.lists, l ≠ [])
    (hgood : p.imageGood e.deleted (votedImage x.lists) = true) :
    e.decide p x margin depth quorum = e.formWitness quorum (votedImage x.lists) := by
  simp [Entry.decide, hw, blankCount_eq_zero.2 hfull, hgood]

/-- R141: without a witness, a bad vote without blank positions is searched. -/
theorem Entry.decide_bad (hw : x.witness = none) (hfull : ∀ l ∈ x.lists, l ≠ [])
    (hbad : ¬ p.imageGood e.deleted (votedImage x.lists) = true) :
    e.decide p x margin depth quorum = e.repairSearch p x.lists (contestedSet margin x.lists) depth := by
  simp [Entry.decide, hw, blankCount_eq_zero.2 hfull, hbad]

end course

section weighing
variable {e : Entry} {quorum : Nat} {w voted : List Byte}

/-- R142, R143: a vote that is bad, below quorum, or agrees again leaves the witness state as it stood. -/
theorem Entry.weighVote_idle {good : Bool}
    (h : good = false ∨ e.merged < quorum ∨ (voted = w ∧ e.voteConfirm = true)) :
    e.weighVote quorum w voted good = e.unchanged (some w) w := by
  obtain rfl | hbelow | ⟨rfl, hflag⟩ := h
  · simp [Entry.weighVote]
  · simp [Entry.weighVote, hbelow]
  · simp [Entry.weighVote, hflag]

/-- R142: a good vote at quorum confirms an equal witness while the flag is clear. -/
theorem Entry.weighVote_confirms (hq : quorum ≤ e.merged) (hflag : e.voteConfirm = false) :
    e.weighVote quorum w w true =
      { e.unchanged (some w) w with confirmations := satInc 15 e.confirmations, voteConfirm := true } := by
  simp [Entry.weighVote, hq, hflag]

/-- R143: a good vote at quorum replaces a weak witness that differs. -/
theorem Entry.weighVote_replaces (hq : quorum ≤ e.merged) (hne : voted ≠ w) (hweak : e.confirmations = 0) :
    e.weighVote quorum w voted true =
      { e.unchanged (some voted) voted with
        origin := .vote, confirmations := 1, voteConfirm := true, replacements := satInc 255 e.replacements } := by
  simp [Entry.weighVote, hq, hne, hweak]

/-- R143: a good vote at quorum is a conflict with a strong witness that differs. -/
theorem Entry.weighVote_conflicts (hq : quorum ≤ e.merged) (hne : voted ≠ w) (hstrong : 1 ≤ e.confirmations) :
    e.weighVote quorum w voted true =
      { e.unchanged (some w) w with conflicts := satInc 255 e.conflicts, conflictRecorded := true } := by
  have hnz : e.confirmations ≠ 0 := Nat.one_le_iff_ne_zero.1 hstrong
  simp [Entry.weighVote, hq, hne, hnz]

/-- R145: a vote at quorum forms a strong witness. -/
theorem Entry.formWitness_atQuorum (hq : quorum ≤ e.merged) :
    e.formWitness quorum voted =
      { e.unchanged (some voted) voted with origin := .vote, confirmations := 1, voteConfirm := true } := by
  simp only [Entry.formWitness, if_pos hq]

/-- R145: a vote below quorum forms a weak witness and leaves the flag. -/
theorem Entry.formWitness_belowQuorum (hq : e.merged < quorum) :
    e.formWitness quorum voted = { e.unchanged (some voted) voted with origin := .vote, confirmations := 0 } := by
  simp only [Entry.formWitness, if_neg (Nat.not_le.2 hq)]
  rfl

end weighing

/-- Settles O47: the course of R141 is chosen by the witness and the blank positions, and each outcome is one case of
`weighVote` or `formWitness`. -/
theorem theVoteIsWeighedAgainstTheWitness : Obligations.TheVoteIsWeighedAgainstTheWitness := by
  intro e p x margin depth quorum voted full good up same d
  refine ⟨fun w hw => ?_, fun hw => ⟨Entry.decide_blank hw, ?_, ?_⟩⟩
  · have hd : d = e.weighVote quorum w voted (blankCount x.lists == 0 && p.imageGood e.deleted voted) :=
      Entry.decide_witness hw
    have hgood (h : good) : d = e.weighVote quorum w voted true := by rw [hd, goodVote_iff.2 h]
    refine ⟨fun h => ?_, fun h hq heq hflag => ?_, fun h hq hne hweak => ?_, fun h hq hne hstrong => ?_⟩
    · rw [hd]
      exact Entry.weighVote_idle (h.imp_left fun hbad => Bool.eq_false_iff.2 (mt goodVote_iff.1 hbad))
    · rw [hgood h, heq]
      exact Entry.weighVote_confirms hq hflag
    · rw [hgood h]
      exact Entry.weighVote_replaces hq hne hweak
    · rw [hgood h]
      exact Entry.weighVote_conflicts hq hne hstrong
  · rintro ⟨hfull, hgood⟩ hq
    exact (Entry.decide_good hw hfull hgood).trans (Entry.formWitness_atQuorum hq)
  · rintro ⟨hfull, hgood⟩ hq
    exact (Entry.decide_good hw hfull hgood).trans (Entry.formWitness_belowQuorum hq)

end Sys2Proof.Machine
end

section
/-! SUPPORT. The repair search (R147, R148): the positions of the contested set (R140), the trial images over them,
the good trials by number, the outcome of the search, and the obligation they settle. -/

namespace Sys2Proof.Machine

/-! ## The contested set -/

/-- R140: a list enters the contested positions, by `insertContested`, only with a second candidate. -/
theorem contestedFrom_cons (margin pos : Nat) (l : List Candidate) (ls : List (List Candidate)) :
    contestedFrom margin pos (l :: ls) = contestedFrom margin (pos + 1) ls
      ∨ ∃ a b t m, l = a :: b :: t
          ∧ contestedFrom margin pos (l :: ls) = insertContested m pos (contestedFrom margin (pos + 1) ls) := by
  obtain _ | ⟨a, _ | ⟨b, t⟩⟩ := l
  · exact .inl rfl
  · exact .inl rfl
  · rw [contestedFrom]
    split
    · exact .inr ⟨a, b, t, _, rfl, rfl⟩
    · exact .inl rfl

/-- R140: a contested position lies in the lists, and its list has a second candidate. -/
theorem mem_contestedFrom {margin pos : Nat} {lists : List (List Candidate)} {y : Nat × Nat}
    (h : y ∈ contestedFrom margin pos lists) :
    ∃ i a b t, y.2 = pos + i ∧ lists[i]? = some (a :: b :: t) := by
  induction lists generalizing pos with
  | nil => cases h
  | cons l ls ih =>
    have hrest (hy : y ∈ contestedFrom margin (pos + 1) ls) :
        ∃ i a b t, y.2 = pos + i ∧ (l :: ls)[i]? = some (a :: b :: t) := by
      obtain ⟨i, a, b, t, hi, hl⟩ := ih hy
      exact ⟨i + 1, a, b, t, by omega, hl⟩
    obtain heq | ⟨a, b, t, m, rfl, heq⟩ := contestedFrom_cons margin pos l ls
    · exact hrest (heq ▸ h)
    · rw [heq, (insertContested_perm _ _ _).mem_iff, List.mem_cons] at h
      obtain rfl | hy := h
      · exact ⟨0, a, b, t, rfl, rfl⟩
      · exact hrest hy

/-- R140: no position is contested twice. -/
theorem contestedFrom_nodup (margin pos : Nat) (lists : List (List Candidate)) :
    ((contestedFrom margin pos lists).map (·.2)).Nodup := by
  induction lists generalizing pos with
  | nil => exact List.nodup_nil
  | cons l ls ih =>
    obtain heq | ⟨a, b, t, m, -, heq⟩ := contestedFrom_cons margin pos l ls
    · rw [heq]
      exact ih (pos + 1)
    · rw [heq, ((insertContested_perm _ _ _).map _).nodup_iff, List.map_cons, List.nodup_cons]
      refine ⟨fun hmem => ?_, ih (pos + 1)⟩
      obtain ⟨y, hy, hpos⟩ := List.mem_map.1 hmem
      obtain ⟨i, -, -, -, hi, -⟩ := mem_contestedFrom hy
      omega

theorem contestedSet_nodup (margin : Nat) (lists : List (List Candidate)) : (contestedSet margin lists).Nodup :=
  contestedFrom_nodup margin 0 lists

/-- R140: every contested position has a second candidate. -/
theorem contestedSet_second {margin pos : Nat} {lists : List (List Candidate)} (h : pos ∈ contestedSet margin lists) :
    ∃ a b t, lists[pos]? = some (a :: b :: t) := by
  obtain ⟨y, hy, rfl⟩ := List.mem_map.1 h
  obtain ⟨i, a, b, t, hi, hl⟩ := mem_contestedFrom hy
  rw [hi, Nat.zero_add]
  exact ⟨a, b, t, hl⟩

/-! ## Trial images -/

theorem secondValue_eq {lists : List (List Candidate)} {pos : Nat} {a b : Candidate} {t : List Candidate}
    (h : lists.getD pos [] = a :: b :: t) : secondValue lists pos = b.value := by
  rw [secondValue, h]

/-- R147: a trial leaves every position outside the chosen ones. -/
theorem trialImage_of_notMem {lists : List (List Candidate)} {ks : List Nat} {pos : Nat} (h : pos ∉ ks) (t : Nat)
    (image : List Byte) : (trialImage lists ks t image)[pos]? = image[pos]? := by
  induction ks generalizing t image with
  | nil => rfl
  | cons k ks ih =>
    obtain ⟨hne, hks⟩ := List.ne_and_not_mem_of_not_mem_cons h
    rw [trialImage, ih hks]
    split
    · exact List.getElem?_set_ne (Ne.symm hne)
    · rfl

/-- R147: at the j-th chosen position, bit j of the trial's number selects the second candidate. -/
theorem trialImage_of_getElem? {lists : List (List Candidate)} {ks : List Nat} (hks : ks.Nodup) {j pos : Nat}
    (hj : ks[j]? = some pos) (t : Nat) {image : List Byte} (hpos : pos < image.length) :
    (trialImage lists ks t image)[pos]? = if t.testBit j then some (secondValue lists pos) else image[pos]? := by
  induction ks generalizing j t image with
  | nil => cases hj
  | cons k ks ih =>
    obtain ⟨hk, hks⟩ := List.nodup_cons.1 hks
    rw [trialImage]
    cases j with
    | zero =>
      obtain rfl : k = pos := by simpa using hj
      rw [trialImage_of_notMem hk, Nat.testBit_zero, apply_ite (·[k]?), List.getElem?_set_self hpos]
      simp only [decide_eq_true_eq]
    | succ j =>
      have hj : ks[j]? = some pos := hj
      have hne : k ≠ pos := fun heq => hk (heq ▸ List.mem_of_getElem? hj)
      rw [ih hks hj _ (by split <;> simpa using hpos), Nat.testBit_succ, apply_ite (·[pos]?),
        List.getElem?_set_ne hne, ite_self]

/-- R147: `image` is trial `t` over the first `n` positions of `ks`: the second candidate where the bit of the position's
place is set, and the vote elsewhere. -/
def IsTrial (lists : List (List Candidate)) (ks : List Nat) (n t : Nat) (image : List Byte) : Prop :=
  image.length = (votedImage lists).length
    ∧ ∀ pos < (votedImage lists).length,
        ((∃ j, j < n ∧ ks[j]? = some pos ∧ t.testBit j = true) →
          ∃ a b rest, lists.getD pos [] = a :: b :: rest ∧ image[pos]? = some b.value)
          ∧ ((∀ j, j < n → ks[j]? = some pos → t.testBit j = false) → image[pos]? = (votedImage lists)[pos]?)

/-- R147: the number of a trial and the positions determine its image. -/
theorem IsTrial.unique {lists : List (List Candidate)} {ks : List Nat} {n t : Nat} {image other : List Byte}
    (h : IsTrial lists ks n t image) (h' : IsTrial lists ks n t other) : image = other := by
  obtain ⟨hlen, hbytes⟩ := h
  obtain ⟨hlen', hbytes'⟩ := h'
  refine List.ext_getElem? fun pos => ?_
  obtain hpos | hpos := Nat.lt_or_ge pos (votedImage lists).length
  · obtain ⟨hset, hclear⟩ := hbytes pos hpos
    obtain ⟨hset', hclear'⟩ := hbytes' pos hpos
    by_cases hbit : ∃ j, j < n ∧ ks[j]? = some pos ∧ t.testBit j = true
    · obtain ⟨a, b, rest, hl, himage⟩ := hset hbit
      obtain ⟨a', b', rest', hl', hother⟩ := hset' hbit
      rw [himage, hother, ← secondValue_eq hl, ← secondValue_eq hl']
    · have hbits (j : Nat) (hj : j < n) (hk : ks[j]? = some pos) : t.testBit j = false :=
        Bool.eq_false_iff.2 fun ht => hbit ⟨j, hj, hk, ht⟩
      rw [hclear hbits, hclear' hbits]
  · rw [List.getElem?_eq_none (hlen ▸ hpos), List.getElem?_eq_none (hlen' ▸ hpos)]

/-- R147: over the contested set, the model's trial image is the trial of its number. -/
theorem isTrial_trialImage (margin : Nat) (lists : List (List Candidate)) (n t : Nat) :
    IsTrial lists (contestedSet margin lists) n t
      (trialImage lists ((contestedSet margin lists).take n) t (votedImage lists)) := by
  have hnodup := (contestedSet_nodup margin lists).sublist (List.take_sublist n _)
  have htake {j pos : Nat} :
      ((contestedSet margin lists).take n)[j]? = some pos ↔ j < n ∧ (contestedSet margin lists)[j]? = some pos := by
    rw [List.getElem?_take, Option.ite_none_right_eq_some]
  refine ⟨trialImage_length _ _ _ _, fun pos hpos => ⟨?_, fun hclear => ?_⟩⟩
  · rintro ⟨j, hj, hk, ht⟩
    obtain ⟨a, b, rest, hl⟩ := contestedSet_second (List.mem_of_getElem? hk)
    have hl : lists.getD pos [] = a :: b :: rest := by rw [List.getD_eq_getElem?_getD, hl, Option.getD_some]
    refine ⟨a, b, rest, hl, ?_⟩
    rw [trialImage_of_getElem? hnodup (htake.2 ⟨hj, hk⟩) t hpos, if_pos ht, secondValue_eq hl]
  · by_cases hmem : pos ∈ (contestedSet margin lists).take n
    · obtain ⟨j, hj⟩ := List.mem_iff_getElem?.1 hmem
      have ⟨hlt, hk⟩ := htake.1 hj
      rw [trialImage_of_getElem? hnodup hj t hpos, hclear j hlt hk, if_neg Bool.false_ne_true]
    · exact trialImage_of_notMem hmem t _

theorem isTrial_contestedSet_iff {margin : Nat} {lists : List (List Candidate)} {n t : Nat} {image : List Byte} :
    IsTrial lists (contestedSet margin lists) n t image
      ↔ image = trialImage lists ((contestedSet margin lists).take n) t (votedImage lists) :=
  ⟨fun h => h.unique (isTrial_trialImage margin lists n t), fun h => h ▸ isTrial_trialImage margin lists n t⟩

/-! ## Good trials -/

/-- The numbers of the good trials over the positions `ks`, in order (R147). -/
def goodTrialNumbers (p : Profile) (deleted : Bool) (lists : List (List Candidate)) (ks : List Nat) : List Nat :=
  (List.range' 1 (2 ^ ks.length - 1)).filter fun t => p.imageGood deleted (trialImage lists ks t (votedImage lists))

section goodTrials
variable {p : Profile} {deleted : Bool} {lists : List (List Candidate)} {ks : List Nat}

/-- R147: the good trial images are those of the good trials' numbers. -/
theorem goodTrials_eq :
    goodTrials p deleted lists ks =
      (goodTrialNumbers p deleted lists ks).map fun t => trialImage lists ks t (votedImage lists) := by
  rw [goodTrials, goodTrialNumbers, List.range'_eq_map_range, List.filter_map, List.filter_map, List.map_map]
  simp only [Function.comp_def, Nat.add_comm 1]

theorem mem_goodTrialNumbers {t : Nat} :
    t ∈ goodTrialNumbers p deleted lists ks
      ↔ (1 ≤ t ∧ t < 2 ^ ks.length) ∧ p.imageGood deleted (trialImage lists ks t (votedImage lists)) = true := by
  have hpow := Nat.two_pow_pos ks.length
  rw [goodTrialNumbers, List.mem_filter, List.mem_range'_1, Nat.add_sub_cancel' hpow]

theorem goodTrialNumbers_nodup : (goodTrialNumbers p deleted lists ks).Nodup :=
  (List.nodup_range' 1).filter _

theorem goodTrials_eq_nil (h : ∀ t, t ∉ goodTrialNumbers p deleted lists ks) : goodTrials p deleted lists ks = [] := by
  rw [goodTrials_eq, List.eq_nil_iff_forall_not_mem.2 h, List.map_nil]

theorem goodTrials_eq_singleton {t : Nat} (h : ∀ u, u ∈ goodTrialNumbers p deleted lists ks ↔ u = t) :
    goodTrials p deleted lists ks = [trialImage lists ks t (votedImage lists)] := by
  have hperm : (goodTrialNumbers p deleted lists ks).Perm [t] :=
    (List.perm_ext_iff_of_nodup goodTrialNumbers_nodup (List.nodup_singleton t)).2 fun u => by
      rw [h, List.mem_singleton]
  rw [goodTrials_eq, List.perm_singleton.1 hperm, List.map_singleton]

theorem two_le_length_goodTrials {t u : Nat} (htu : t ≠ u) (ht : t ∈ goodTrialNumbers p deleted lists ks)
    (hu : u ∈ goodTrialNumbers p deleted lists ks) : 2 ≤ (goodTrials p deleted lists ks).length := by
  rw [goodTrials_eq, List.length_map]
  have hpair : [t, u].Nodup := List.pairwise_pair.2 htu
  exact (hpair.subperm (List.forall_mem_cons.2 ⟨ht, List.forall_mem_singleton.2 hu⟩)).length_le

end goodTrials

/-! ## The outcome -/

section outcome
variable {e : Entry} {p : Profile} {lists : List (List Candidate)} {k : List Nat} {depth : Nat}

/-- R147, R148: with no position to change, no search is made. -/
theorem Entry.repairSearch_notTried (hn : min k.length depth = 0) :
    e.repairSearch p lists k depth = { e.unchanged none (votedImage lists) with unsearched := k.length } := by
  rw [Entry.repairSearch, if_pos hn]

/-- R148: no good trial. -/
theorem Entry.repairSearch_noneFound (hn : 1 ≤ min k.length depth)
    (h : goodTrials p e.deleted lists (k.take (min k.length depth)) = []) :
    e.repairSearch p lists k depth =
      { e.unchanged none (votedImage lists) with
        repair := .noneFound, unsearched := k.length - min k.length depth } := by
  rw [Entry.repairSearch, if_neg (Nat.one_le_iff_ne_zero.1 hn), h]

/-- R148: the one good trial becomes a weak witness. -/
theorem Entry.repairSearch_accepted (hn : 1 ≤ min k.length depth) {image : List Byte}
    (h : goodTrials p e.deleted lists (k.take (min k.length depth)) = [image]) :
    e.repairSearch p lists k depth =
      { e.unchanged (some image) image with
        origin := .repair, confirmations := 0, repair := .accepted
        unsearched := k.length - min k.length depth } := by
  rw [Entry.repairSearch, if_neg (Nat.one_le_iff_ne_zero.1 hn), h]

/-- R148: more than one good trial. -/
theorem Entry.repairSearch_ambiguous (hn : 1 ≤ min k.length depth)
    (h : 2 ≤ (goodTrials p e.deleted lists (k.take (min k.length depth))).length) :
    e.repairSearch p lists k depth =
      { e.unchanged none (votedImage lists) with
        repair := .ambiguous, unsearched := k.length - min k.length depth } := by
  rw [Entry.repairSearch, if_neg (Nat.one_le_iff_ne_zero.1 hn)]
  match hgood : goodTrials p e.deleted lists (k.take (min k.length depth)), h with
  | _ :: _ :: _, _ => rfl

end outcome

/-- Settles O48: the trial of a number is unique, so the good trials are counted by their numbers, and the list of
their images is empty, a single image, or longer. -/
theorem repairTriesTheContestedPositions : Obligations.RepairTriesTheContestedPositions := by
  intro e p x margin depth quorum voted k n isGood isTrial same d hw hfull hbad
  have hgood (image : List Byte) : isGood image ↔ p.imageGood e.deleted image = true :=
    (p.imageGood_iff e.deleted image).symm
  have htrial {t : Nat} {image : List Byte} : isTrial t image ↔ image = trialImage x.lists (k.take n) t voted :=
    isTrial_contestedSet_iff
  have hnumber {t : Nat} :
      t ∈ goodTrialNumbers p e.deleted x.lists (k.take n)
        ↔ (1 ≤ t ∧ t < 2 ^ n) ∧ isGood (trialImage x.lists (k.take n) t voted) := by
    rw [mem_goodTrialNumbers, List.length_take_of_le (Nat.min_le_left _ _), hgood]
  have hd : d = e.repairSearch p x.lists k depth := Entry.decide_bad hw hfull (mt (hgood voted).2 hbad)
  rw [hd]
  refine ⟨Entry.repairSearch_notTried, fun hn => ⟨fun hnone => ?_, ?_, ?_⟩⟩
  · refine Entry.repairSearch_noneFound hn (goodTrials_eq_nil fun t ht => ?_)
    obtain ⟨⟨hpos, hlt⟩, hg⟩ := hnumber.1 ht
    exact hnone t _ hpos hlt (htrial.2 rfl) hg
  · intro t image hpos hlt ht hg honly
    obtain rfl := htrial.1 ht
    refine Entry.repairSearch_accepted hn (goodTrials_eq_singleton fun u => ⟨fun hu => ?_, ?_⟩)
    · obtain ⟨⟨hpos, hlt⟩, hg⟩ := hnumber.1 hu
      exact honly u _ hpos hlt (htrial.2 rfl) hg
    · rintro rfl
      exact hnumber.2 ⟨⟨hpos, hlt⟩, hg⟩
  · intro t image u other hpos htu hlt ht hgt hu hgu
    obtain rfl := htrial.1 ht
    obtain rfl := htrial.1 hu
    exact Entry.repairSearch_ambiguous hn (two_le_length_goodTrials htu.ne
      (hnumber.2 ⟨⟨hpos, htu.trans hlt⟩, hgt⟩) (hnumber.2 ⟨⟨hpos.trans htu.le, hlt⟩, hgu⟩))

end Sys2Proof.Machine
end

section
/-! SUPPORT. RELEASE (R161 to R164): the answer to each test in its order, what a track record stored with new counts
brings with it (R101), and the state after an entry is released. -/

namespace Sys2Proof.Machine

/-! ## The answers -/

section release

variable {s : State} {index : Nat}

/-- R161: an index out of range. -/
theorem State.release_outOfRange (h : 4095 < index) : s.release index = ⟨.range, [0xFF], s⟩ := by
  rw [State.release, if_pos h]

/-- R161: the index of a FREE entry. -/
theorem State.release_freeEntry (h : index ≤ 4095) (hget : Table.get s.entries index = none) :
    s.release index = ⟨.notFound, [0xFF], s⟩ := by
  rw [State.release, if_neg h.not_gt, hget]

variable {e : Entry}

/-- R161: an entry the engine works on. -/
theorem State.release_busy (h : index ≤ 4095) (hget : Table.get s.entries index = some e) (hbusy : e.busy = true) :
    s.release index = ⟨.busy, [0xFF], s⟩ := by
  rw [State.release, if_neg h.not_gt, hget]
  exact if_pos hbusy

/-- R161: an entry that passes the tests is released. -/
theorem State.release_resting (h : index ≤ 4095) (hget : Table.get s.entries index = some e)
    (hbusy : e.busy = false) :
    s.release index = ⟨.ok, bytesBE 1 e.status.code, s.releaseNow index e⟩ := by
  rw [State.release, if_neg h.not_gt, hget]
  exact if_neg (Bool.eq_false_iff.1 hbusy)

end release

/-- A RELEASE taken answers with its reply. -/
theorem exec_release {p : PortId} {index : Word} {s t : State} {r : ResultCode} {bytes : List Byte}
    (hready : s.ready p) (hreply : s.release index.toNat = ⟨r, bytes, t⟩) :
    exec (.release p index) s = .next (t.answered p r bytes) :=
  congrArg Host.Outcome.next (State.onCommand_answers hready _ hreply)

/-! ## A track record with new counts -/

section noteTrack

variable {s : State} {t : Track} {v : Fin 8} {x : Volume}

/-- R101: the sum reaches the sectors per track for the first time. -/
theorem State.noteTrack_reached (hv : t.key.volume = v) (hx : s.volumes[v] = x) (j : Nat)
    (h : t.done = false ∧ x.sectorsPerTrack ≤ t.settled + t.released) :
    s.noteTrack j t =
      ((s.setTrack j { t with done := true }).setVolume v { x with tracksDone := x.tracksDone + 1 }).raise
        .trackDone := by
  subst hv hx
  obtain ⟨hdone, hsum⟩ := h
  obtain ⟨-, hnot⟩ | ⟨-, -, heq⟩ := State.noteTrack_cases s j t
  · rcases hnot with hnot | hnot
    · exact absurd hnot (Bool.eq_false_iff.1 hdone)
    · exact absurd hsum hnot.not_ge
  · exact heq

/-- R101: a track already done, or with sectors still to come, is stored and nothing follows. -/
theorem State.noteTrack_notReached (hv : t.key.volume = v) (hx : s.volumes[v] = x) (j : Nat)
    (h : ¬ (t.done = false ∧ x.sectorsPerTrack ≤ t.settled + t.released)) : s.noteTrack j t = s.setTrack j t := by
  subst hv hx
  obtain ⟨heq, -⟩ | ⟨hdone, hsum, -⟩ := State.noteTrack_cases s j t
  · exact heq
  · exact absurd ⟨hdone, hsum⟩ h

end noteTrack

/-! ## The entry and its counts -/

/-- Entry `i` is FREE, with the volume's counts and the free entry count following (R162, R164, R110). -/
def State.freeEntry (s : State) (i : Nat) (e : Entry) : State :=
  (({ s with entries := Table.drop s.entries i }).setVolume e.key.track.volume
    ((s.volumes[e.key.track.volume]).release (e.status == Status.settled))).freeUp 1

theorem State.freeEntry_eq (s : State) (i : Nat) (e : Entry) :
    s.freeEntry i e =
      { s with
        entries := Table.drop s.entries i
        volumes :=
          s.volumes.set e.key.track.volume ((s.volumes[e.key.track.volume]).release (e.status == .settled))
        freeEntries := s.freeEntries + 1
        lowWarning := if s.settings.lowThreshold ≤ s.freeEntries + 1 then false else s.lowWarning } := by
  simp [State.freeEntry, State.setVolume, State.freeUp]

theorem State.freeEntry_volume (s : State) (i : Nat) (e : Entry) :
    (s.freeEntry i e).volumes[e.key.track.volume] =
      (s.volumes[e.key.track.volume]).release (e.status == .settled) :=
  State.setVolume_get _ _ _

/-- R163: the release of an entry whose track record is found ends in that record's new counts. -/
theorem State.releaseNow_of_findTrack {s : State} {e : Entry} {j : Nat} {r : Track}
    (h : s.findTrack e.key.track = some (j, r)) (i : Nat) :
    s.releaseNow i e = (s.freeEntry i e).noteTrack j (r.release (s.offsetOf e.key) (e.status == .settled)) := by
  unfold State.releaseNow
  rw [h]
  rfl

/-- Settles O24: each test is a lemma of its own; past them, the distinct keys make the track record of the statement
the one that is found, and whether its sum first reaches the sectors per track decides what is stored. -/
theorem releaseTestsAndFrees : Obligations.ReleaseTestsAndFrees := by
  intro p index s hready
  refine ⟨fun h => exec_release hready (State.release_outOfRange h),
    fun h hget => exec_release hready (State.release_freeEntry h hget), fun e h hget =>
    ⟨fun hbusy => exec_release hready (State.release_busy h hget hbusy), fun j r hbusy hk hr hkey => ?_⟩⟩
  intro v x was r' done t
  have hfind : s.findTrack e.key.track = some (j, r) := hkey ▸ State.findTrack_of_mem hk (Table.mem_of_get hr)
  have htrack : r.release (s.offsetOf e.key) (e.status == .settled) = r' := by
    simp only [Track.release, beq_iff_eq, r', was, x, v, State.offsetOf]
  have hvolume := State.freeEntry_volume s index.toNat e
  have hfreed : s.releaseNow index.toNat e = if done then t.raise .trackDone else t := by
    rw [State.releaseNow_of_findTrack hfind, htrack]
    by_cases hdone : done
    · rw [if_pos hdone, State.noteTrack_reached (t := r') (congrArg TrackKey.volume hkey) hvolume j hdone]
      simp [State.freeEntry_eq, Volume.release, State.setVolume, State.setTrack, t, if_pos hdone, was, x, v]
    · rw [if_neg hdone, State.noteTrack_notReached (t := r') (congrArg TrackKey.volume hkey) hvolume j hdone]
      simp [State.freeEntry_eq, Volume.release, State.setTrack, t, if_neg hdone, r', was, x, v]
  rw [exec_release hready (State.release_resting h hget hbusy), hfreed]
  cases e.status <;> rfl

end Sys2Proof.Machine
end

section
/-! SUPPORT. STATUS and SET WINDOW (R175, R176), READ EVENTS and the clearing of the flags it has reported (R183): the
response bytes, the answer to each test, and the obligations they settle. -/

namespace Sys2Proof.Machine

/-! ## Response bytes -/

/-- R172: a two-byte number goes high byte first. -/
theorem bytesBE_two (v : Nat) : bytesBE 2 v = [BitVec.ofNat 8 (v / 256), BitVec.ofNat 8 v] := rfl

/-- A word's number goes as the word's two bytes. -/
theorem bytesBE_word (w : Word) : bytesBE 2 w.toNat = [w.extractLsb' 8 8, w.extractLsb' 0 8] := by
  have hhigh : BitVec.ofNat 8 (w.toNat / 256) = w.extractLsb' 8 8 := by
    apply BitVec.eq_of_toNat_eq
    simp [Nat.shiftRight_eq_div_pow]
  have hlow : BitVec.ofNat 8 w.toNat = w.extractLsb' 0 8 := by
    apply BitVec.eq_of_toNat_eq
    simp
  rw [bytesBE_two, hhigh, hlow]

/-- The four lanes in their order. -/
theorem State.lanes_toList (s : State) : s.lanes.toList = [s.lanes[0], s.lanes[1], s.lanes[2], s.lanes[3]] := by
  refine List.ext_getElem (by simp) fun k hk _ => ?_
  have hlt : k < 4 := by simpa using hk
  interval_cases k <;> simp

/-- R174, R175: STATUS reports the free entry count and the four lane states. -/
theorem State.statusBytes_eq (s : State) :
    s.statusBytes =
      [BitVec.ofNat 8 (s.freeEntries / 256), BitVec.ofNat 8 s.freeEntries,
        BitVec.ofNat 8 (s.lanes[0]).state.code, BitVec.ofNat 8 (s.lanes[1]).state.code,
        BitVec.ofNat 8 (s.lanes[2]).state.code, BitVec.ofNat 8 (s.lanes[3]).state.code] := by
  simp only [State.statusBytes, bytesBE_two, State.lanes_toList, List.map_cons, List.map_nil, List.cons_append,
    List.nil_append]

/-! ## STATUS -/

/-- R175: a STATUS taken fixes its response and touches nothing but the port's phase. -/
theorem exec_status {p : PortId} {s : State} (hready : s.ready p) :
    exec (.status p) s =
      .next (s.setPort p { s.port p with phase := .response (0 :: 0 :: s.statusBytes) none }) :=
  congrArg Host.Outcome.next (if_pos (State.awaits_of_ready hready))

/-! ## SET WINDOW -/

/-- R175: SET WINDOW fails when one of its three tests does. -/
theorem windowInRange_eq_false_iff {space index offset : Nat} :
    windowInRange space index offset = false ↔
      9 < space ∨ spaceRecords space ≤ index ∨ spaceSize space ≤ offset := by
  simp [windowInRange, imp_iff_not_or, or_assoc]

section setWindow

variable {p : PortId} {s : State} {space : Byte} {index offset : Word}

/-- R175: a place outside R176's table. -/
theorem exec_setWindow_outOfRange (hready : s.ready p)
    (hrange : windowInRange space.toNat index.toNat offset.toNat = false) :
    exec (.setWindow p space index offset) s = .next (s.answered p .range []) :=
  congrArg Host.Outcome.next (State.onCommand_answers hready _ (if_neg (Bool.eq_false_iff.1 hrange)))

/-- R175: a place in R176's table becomes the port's cursor. -/
theorem exec_setWindow_inRange (hready : s.ready p)
    (hrange : windowInRange space.toNat index.toNat offset.toNat = true) :
    exec (.setWindow p space index offset) s =
      .next ((s.setPort p
        { s.port p with cursor := .point space.toNat index.toNat offset.toNat }).answered p .ok []) :=
  congrArg Host.Outcome.next (State.onCommand_answers hready _ (if_pos hrange))

end setWindow

/-- Settles O6: R176's table by its ten rows, STATUS by its response bytes, and SET WINDOW by whether one of its tests
fails. -/
theorem statusAnswersAndSetWindowTestsItsArguments : Obligations.StatusAnswersAndSetWindowTestsItsArguments := by
  refine ⟨rfl, rfl, fun p s hready => ⟨?_, fun space index offset => ?_⟩⟩
  · rw [exec_status hready, State.statusBytes_eq]
  · split
    next hfails => exact exec_setWindow_outOfRange hready (windowInRange_eq_false_iff.2 hfails)
    next hpasses =>
      exact exec_setWindow_inRange hready (Bool.eq_true_of_not_eq_false (mt windowInRange_eq_false_iff.1 hpasses))

/-! ## READ EVENTS -/

/-- R183: a READ EVENTS taken answers OK with the flag word, and its copy waits to be cleared. -/
theorem exec_readEvents {p : PortId} {s : State} (hready : s.ready p) :
    exec (.readEvents p) s =
      .next (s.setPort p
        { s.port p with
          lastResult := .ok
          phase := .response (0 :: 0 :: bytesBE 2 (s.port p).flags.toNat) (some (s.port p).flags) }) :=
  congrArg Host.Outcome.next (if_pos (State.awaits_of_ready hready))

section response

variable {p : PortId} {s : State} {out : List Byte} {copy : Option Word}

/-- R183: the second response byte has been shifted out, and the copy's flags are cleared. -/
theorem exec_readEventsClear {w : Word} (hphase : (s.port p).phase = .response out (some w)) :
    exec (.readEventsClear p) s =
      .next (s.setPort p { s.port p with flags := (s.port p).flags &&& ~~~w, phase := .response out none }) := by
  simp only [exec, execReadEventsClear, hphase]

/-- R171: chip select rises in the data phase of a response, and the transaction closes. -/
theorem exec_dataPhaseEnd_response (hphase : (s.port p).phase = .response out copy) :
    exec (.dataPhaseEnd p) s = .next (s.setPort p { s.port p with phase := .closed }) := by
  simp only [exec, execDataPhaseEnd, hphase]

end response

/-- R183: clearing a copy's flags clears these flags and no others. -/
theorem getLsbD_and_not (flags copy : Word) {k : Nat} (hk : k < 16) :
    (flags &&& ~~~copy).getLsbD k = (flags.getLsbD k && !copy.getLsbD k) := by
  simp [hk]

/-- Settles O7: the copy is the flag word's two bytes, and clearing it is told bit by bit. -/
theorem readEventsClearsOnlyWhatItReported : Obligations.ReadEventsClearsOnlyWhatItReported := by
  intro p s
  refine ⟨fun hready => ?_, fun out copy hphase => ⟨⟨_, exec_readEventsClear hphase, ?_⟩, ?_⟩⟩
  · rw [exec_readEvents hready, bytesBE_word]
  · exact fun k hk => getLsbD_and_not _ copy hk
  · exact exec_dataPhaseEnd_response hphase

end Sys2Proof.Machine
end

section
/-! SUPPORT. What a step can do: every command is a chain of effects, each one update of the state under the conditions its
command has tested. Every invariant of the part is then one case analysis over the effects. -/

namespace Sys2Proof.Machine

open Relation (ReflTransGen)

/-! ## The effects -/

/-- Beside the ports, the RESET_N pin, the table-low warning and the count of free values drawn, `t` is `s`. -/
def State.SameBlocks (s t : State) : Prop :=
  t = { s with
        bay := t.bay, station := t.station, resetLow := t.resetLow, lowWarning := t.lowWarning
        engine := { s.engine with freeCount := t.engine.freeCount } }

/-- A descriptor that has passed the tests of POST PASS (R59). -/
structure State.Posts (s : State) (d : Descriptor) : Prop where
  inRange : d.InRange
  isOpen : (s.volumes[d.volume]).isOpen = true

/-- What lane `i` can become while the rest of the part stands. -/
inductive State.LaneEffect (s : State) (i : Fin 4) : Lane → Prop where
  | schedule (offset : Nat) (b : Byte) :
      LaneEffect s i { s.lanes[i] with schedule := (s.lanes[i]).schedule.write offset b }
  | chain (d : Descriptor) (hd : s.Posts d) (hstate : (s.lanes[i]).state ≠ .idle) :
      LaneEffect s i { s.lanes[i] with chain := some d }
  | activate (d : Descriptor) (hd : s.Posts d) (hstate : (s.lanes[i]).state = .idle) :
      LaneEffect s i ((s.lanes[i]).activate (s.profileOf d.volume) s.presets d)
  | elapse (n dt : Nat) : LaneEffect s i ((s.lanes[i]).elapse n dt)
  | interval (d : Descriptor) (k ticks : Nat) (hd : (s.lanes[i]).active = some d)
      (hk : (s.lanes[i]).interval = some k) :
      LaneEffect s i ((s.lanes[i]).closeInterval (s.laneEnv i d) d ticks)
  | noIndex : LaneEffect s i (s.lanes[i]).noIndex
  | edge (d : Descriptor) (hd : (s.lanes[i]).active = some d) (hw : (s.lanes[i]).watched = true) :
      LaneEffect s i ((s.lanes[i]).indexEdge (s.profileOf d.volume) s.presets d)

/-- One update of the state, under the conditions its command has tested. -/
inductive State.Effect (s : State) : State → Prop where
  | outside {t : State} (h : s.SameBlocks t) : Effect s t
  | lane (i : Fin 4) {x : Lane} (hx : s.LaneEffect i x) : Effect s (s.setLane i x)
  | settings (offset : Nat) (b : Byte) : Effect s { s with settings := s.settings.write offset b }
  | profile (n : Fin 8) (offset : Nat) (b : Byte) :
      Effect s { s with profiles := s.profiles.set n ((s.profiles[n]).write offset b) }
  | preset (n : Fin 16) (offset : Nat) (b : Byte) :
      Effect s { s with presets := s.presets.set n ((s.presets[n]).write offset b) }
  | openVolume (v n : Fin 8) (cylinders heads first perTrack : Nat)
      (hrange : openInRange cylinders heads first perTrack = true) (hfree : (s.volumes[v]).isOpen = false) :
      Effect s (s.setVolume v ⟨true, n, cylinders, heads, first, perTrack, 0, 0, 0, 0, 0, 0⟩)
  | closeVolume (v : Fin 8) (hfree : s.volumeBusy v = false) : Effect s (s.closeNow v)
  | abort (i : Fin 4) (discardQueue clearChain : Bool) (hstate : (s.lanes[i]).state ≠ .idle) :
      Effect s (s.abortLane i discardQueue clearChain)
  | release (i : Nat) (e : Entry) (hget : Table.get s.entries i = some e) (hbusy : e.busy = false) :
      Effect s (s.releaseNow i e)
  | reset : Effect s s.resetBlocks
  | complete (i : Fin 4) (h : s.drained i = true) : Effect s (s.completePass i)
  | grant : Effect s s.grantOne
  | advance (h : Hand) (upTo : Nat) (hphase : s.engine.phase = .merge) (hhand : s.engine.hand = some h) :
      Effect s (s.advanceMerge h upTo)
  | endMerge (h : Hand) (hphase : s.engine.phase = .merge) (hhand : s.engine.hand = some h) :
      Effect s (s.endMerge h)
  | evaluation (h : Hand) (hphase : s.engine.phase = .evaluation) (hhand : s.engine.hand = some h) :
      Effect s (s.completeEvaluation h)

/-- A chain of effects leads from `s` to `t`. -/
abbrev State.Effects : State → State → Prop := ReflTransGen State.Effect

theorem State.Effect.single {s t : State} (h : s.Effect t) : s.Effects t := ReflTransGen.single h

/-! ## Outside the blocks -/

theorem State.SameBlocks.setPort (s : State) (p : PortId) (x : Port) : s.SameBlocks (s.setPort p x) := by
  cases p <;> rfl

theorem State.SameBlocks.raise (s : State) (e : Event) : s.SameBlocks (s.raise e) := rfl

theorem State.Effects.setPort (s : State) (p : PortId) (x : Port) : s.Effects (s.setPort p x) :=
  (State.Effect.outside (.setPort s p x)).single

/-- What a command's body does is all that a command taken does, but for its port. -/
theorem State.Effects.onCommand (s : State) (p : PortId) (body : State → Reply) (h : s.Effects (body s).state) :
    s.Effects (s.onCommand p body) := by
  obtain heq | ⟨-, heq⟩ := s.onCommand_cases p body
  · rw [heq]
  · rw [heq]
    exact h.trans (State.Effects.setPort _ p _)

/-- What a byte written at the cursor does is all that the write does, but for its port. -/
theorem State.Effects.onWindowWrite (s : State) (p : PortId) (f : Nat → Nat → Nat → Option (State × ResultCode))
    (h : ∀ space index offset t r, f space index offset = some (t, r) → s.Effects t) :
    s.Effects (s.onWindowWrite p f) := by
  obtain heq | ⟨-, space, index, offset, t, r, -, hf, heq⟩ := s.onWindowWrite_cases p f
  · rw [heq]
  · rw [heq]
    exact (h space index offset t r hf).trans (State.Effects.setPort _ p _)

/-! ## Commands on volumes, passes and tables -/

theorem State.Effects.openVolume (s : State) (volume profile cylinders heads first perTrack : Nat) :
    s.Effects (s.openVolume volume profile cylinders heads first perTrack).state := by
  unfold State.openVolume
  split
  next v n hv hn =>
    split
    next => exact .refl
    next hrange =>
      split
      next => exact .refl
      next hclosed => exact (State.Effect.openVolume v n _ _ _ _ (by simpa using hrange) (by simpa using hclosed)).single
  next => exact .refl

theorem State.Effects.closeVolume (s : State) (volume : Nat) : s.Effects (s.closeVolume volume).state := by
  unfold State.closeVolume
  split
  next => exact .refl
  next v _ =>
    split
    next => exact .refl
    next =>
      split
      next => exact .refl
      next hfree => exact (State.Effect.closeVolume v (by simpa using hfree)).single

theorem heldOverride_inRange {v c : Nat} (h : heldOverride v = some c) : 640 ≤ c ∧ c ≤ 6400 := by
  unfold heldOverride at h
  split at h
  · cases h
  · cases h
    exact clampNat_range (by omega) v

theorem State.Effects.postPass (s : State) (laneVolume cylinder head revolutions settle selector override : Nat) :
    s.Effects (s.postPass laneVolume cylinder head revolutions settle selector override).state := by
  unfold State.postPass
  split
  next i v _ _ =>
    split
    next => exact .refl
    next hrange =>
      split
      next => exact .refl
      next hopen =>
        split
        next => exact .refl
        next =>
          have hposts : s.Posts (descriptorOf v cylinder head revolutions settle selector override) := by
            simp only [Bool.not_eq_true', Bool.not_eq_false, Bool.and_eq_true, decide_eq_true_eq] at hrange hopen
            obtain ⟨⟨⟨hrev, hrev'⟩, hsettle⟩, -⟩ := hrange
            exact ⟨⟨⟨hrev, hrev'⟩, hsettle, fun c hc => heldOverride_inRange hc⟩, hopen⟩
          unfold State.placePass
          split
          next hidle => exact (State.Effect.lane i (.activate _ hposts hidle)).single
          next hbusy =>
            split
            next => exact .refl
            next => exact (State.Effect.lane i (.chain _ hposts hbusy)).single
  next => exact .refl

theorem State.Effects.abortPass (s : State) (lane : Nat) (flags : Byte) :
    s.Effects (s.abortPass lane flags).state := by
  unfold State.abortPass
  split
  next => exact .refl
  next i _ =>
    split
    next => exact .refl
    next hstate => exact (State.Effect.abort i _ _ hstate).single

/-- LOCATE, QUERY TRACK and NEXT SETTLED answer from the tables and change nothing (R112 to R114). -/
theorem State.locate_state (s : State) (volume cylinder head sector : Nat) :
    (s.locate volume cylinder head sector).state = s := by
  unfold State.locate
  split
  next => rfl
  next => dsimp only; (repeat' split) <;> rfl

theorem State.queryTrack_state (s : State) (volume cylinder head : Nat) :
    (s.queryTrack volume cylinder head).state = s := by
  unfold State.queryTrack
  split
  next => rfl
  next => dsimp only; (repeat' split) <;> rfl

theorem State.nextSettled_state (s : State) (volume fromIndex : Nat) :
    (s.nextSettled volume fromIndex).state = s := by
  unfold State.nextSettled
  split
  next => rfl
  next => (repeat' split) <;> rfl

theorem State.Effects.release (s : State) (index : Nat) : s.Effects (s.release index).state := by
  unfold State.release
  split
  next => exact .refl
  next =>
    split
    next => exact .refl
    next e hget =>
      split
      next => exact .refl
      next hbusy => exact (State.Effect.release index e hget (by simpa using hbusy)).single

/-! ## Time at a lane -/

theorem Lane.timeoutIn_some {l : Lane} {t : Nat} (h : l.timeoutIn = some t) : ∃ k, l.interval = some k := by
  obtain ⟨k, hk, -⟩ := Option.map_eq_some_iff.1 h
  exact ⟨k, hk⟩

/-- The expiry of a timer leaves the active descriptor. -/
theorem Lane.noIndex_active (l : Lane) : l.noIndex.active = l.active := by
  unfold Lane.noIndex Lane.endCapture
  split
  · rfl
  · rw [Lane.requestFinish_frame]; rfl
  · rfl

theorem Lane.closeInterval_active (env : LaneEnv) (d : Descriptor) (k : Nat) (l : Lane) :
    (l.closeInterval env d k).active = l.active := by
  obtain ⟨c, h, -⟩ := Lane.closeInterval_frame env d k l
  rw [h]

/-- The ticks of a lane with an active descriptor: time passes, and timers run out. -/
theorem State.Effects.passTime (s : State) (i : Fin 4) (d : Descriptor) (points dt : Nat)
    (hd : (s.lanes[i]).active = some d) :
    s.Effects (s.setLane i ((s.lanes[i]).passTime (s.laneEnv i d) d points dt)) := by
  induction points generalizing s dt with
  | zero => exact (State.Effect.lane i (.elapse _ dt)).single
  | succ points ih =>
    unfold Lane.passTime
    split
    next => exact (State.Effect.lane i (.elapse _ dt)).single
    next t w hover =>
      let l := (s.lanes[i]).elapse (s.laneEnv i d).profile.revPeriod t
      have helapse : s.Effects (s.setLane i l) := (State.Effect.lane i (.elapse _ t)).single
      have hl : (s.setLane i l).lanes[i] = l := State.setLane_get _ _ _
      have hrun : (s.setLane i l).LaneEffect i (l.runOut (s.laneEnv i d) d w) := by
        obtain ⟨-, ⟨rfl, hint, -⟩ | ⟨rfl, -⟩⟩ := Lane.overdue_some hover
        · obtain ⟨k, hk⟩ := Lane.timeoutIn_some hint
          have := State.LaneEffect.interval (s := s.setLane i l) (i := i) d (min 8192 (k + t)) 8192
            (by rw [hl]; exact hd) (by rw [hl]; exact congrArg (Option.map _) hk)
          rwa [hl] at this
        · have := State.LaneEffect.noIndex (s := s.setLane i l) (i := i)
          rwa [hl] at this
      have hactive : (l.runOut (s.laneEnv i d) d w).active = some d := by
        cases w
        · exact (Lane.closeInterval_active _ _ _ _).trans hd
        · exact (Lane.noIndex_active _).trans hd
      have hrest := ih ((s.setLane i l).setLane i (l.runOut (s.laneEnv i d) d w)) (dt - t)
        (by rw [State.setLane_get, hactive])
      rw [State.setLane_get, State.setLane_setLane, State.setLane_setLane] at hrest
      refine helapse.trans (.trans (State.Effect.lane i hrun).single ?_)
      rw [State.setLane_setLane]
      exact hrest

theorem State.Effects.elapse (s : State) (i : Fin 4) (dt : Nat) : s.Effects (s.elapse i dt) := by
  unfold State.elapse
  split
  next d hd => exact State.Effects.passTime s i d _ dt hd
  next => exact (State.Effect.lane i (.elapse _ dt)).single

theorem State.Effects.tick (s : State) : s.Effects s.tick :=
  ((State.Effects.elapse _ 0 1).trans (State.Effects.elapse _ 1 1)).trans
    ((State.Effects.elapse _ 2 1).trans (State.Effects.elapse _ 3 1))

/-! ## The window -/

theorem State.Effects.beforeRead (s : State) (space index : Nat) : s.Effects (s.beforeRead space index) := by
  unfold State.beforeRead
  split
  next h hphase hhand =>
    split
    next =>
      exact .trans (State.Effect.advance h (Config.mergeProgress s.engine.freeCount) hphase hhand).single
        (State.Effect.outside (by rfl)).single
    next => exact .refl
  next => exact .refl

/-! ## Every command -/

/-- The meaning of each command is a chain of effects. -/
theorem exec_effects (c : Instr) (s : State) : ∃ t, exec c s = .next t ∧ s.Effects t := by
  cases c <;> refine ⟨_, rfl, ?_⟩
  case chipSelectFall p => split <;> [exact .setPort s p _; exact .refl]
  case transactionCut p => split <;> [exact .setPort s p _; exact .setPort s p _; exact .refl]
  case unknownCommand p code => split <;> [exact .refl; exact .onCommand s p _ .refl]
  case status p => split <;> [exact .setPort s p _; exact .refl]
  case readEvents p => split <;> [exact .setPort s p _; exact .refl]
  case readEventsClear p => split <;> [exact .setPort s p _; exact .refl]
  case setEventMask p mask => exact .onCommand s p _ (.setPort s p _)
  case setWindow p space index offset =>
    refine .onCommand s p _ ?_
    dsimp only
    split <;> [exact .setPort s p _; exact .refl]
  case readWindow p => split <;> [exact .setPort s p _; exact .refl]
  case windowByteRead p =>
    split
    · split
      · exact (State.Effects.beforeRead s _ _).trans (State.Effects.setPort _ p _)
      · exact .setPort s p _
    · exact .refl
  case writeWindow p => split <;> [exact .setPort s p _; exact .refl]
  case settingsWrite p b =>
    refine .onWindowWrite s p _ fun space index offset t r hf => ?_
    split at hf <;> cases hf
    exact (State.Effect.settings offset b).single
  case profileWrite p b =>
    refine .onWindowWrite s p _ fun space index offset t r hf => ?_
    split at hf <;> [skip; cases hf]
    split at hf <;> [skip; cases hf]
    split at hf <;> cases hf <;> [exact .refl; exact (State.Effect.profile _ offset b).single]
  case presetWrite p b =>
    refine .onWindowWrite s p _ fun space index offset t r hf => ?_
    split at hf <;> [skip; cases hf]
    split at hf <;> cases hf
    exact (State.Effect.preset _ offset b).single
  case scheduleWrite p b =>
    refine .onWindowWrite s p _ fun space index offset t r hf => ?_
    split at hf <;> [skip; cases hf]
    split at hf <;> cases hf
    exact (State.Effect.lane _ (.schedule offset b)).single
  case windowByteWrite p b =>
    split
    · exact .setPort s p _
    · refine .onWindowWrite s p _ fun space index offset t r hf => ?_
      split at hf <;> cases hf
      exact .refl
  case openVolume p volume profile cylinders heads first perTrack =>
    exact .onCommand s p _ (.openVolume s _ _ _ _ _ _)
  case closeVolume p volume => exact .onCommand s p _ (.closeVolume s _)
  case postPass p laneVolume cylinder head revolutions settle selector override =>
    exact .onCommand s p _ (.postPass s _ _ _ _ _ _ _)
  case abortPass p lane flags => exact .onCommand s p _ (.abortPass s _ _)
  case locate p volume cylinder head sector =>
    exact .onCommand s p _ (by rw [State.locate_state])
  case queryTrack p volume cylinder head => exact .onCommand s p _ (by rw [State.queryTrack_state])
  case nextSettled p volume fromIndex => exact .onCommand s p _ (by rw [State.nextSettled_state])
  case release p index => exact .onCommand s p _ (.release s _)
  case resetDevice p =>
    split
    · exact (State.Effect.reset).single.trans (State.Effects.setPort _ p _)
    · exact .refl
  case resetAssert => exact (State.Effect.reset).single.trans (State.Effect.outside (by rfl)).single
  case resetRelease => exact (State.Effect.outside (by rfl)).single
  case indexEdge i dt =>
    refine (State.Effects.elapse s i dt).trans ?_
    dsimp only
    split
    next d hw hd => exact (State.Effect.lane i (.edge d hd hw)).single
    next => exact .refl
  case noIndexTimeout i dt =>
    refine (State.Effects.elapse s i dt).trans ?_
    dsimp only
    split
    · split <;> [exact (State.Effect.lane i .noIndex).single; exact .refl]
    · exact .refl
  case fluxTransition i dt =>
    refine (State.Effects.elapse s i dt).trans ?_
    dsimp only
    split
    next k d hk hd => exact (State.Effect.lane i (.interval d k k hd hk)).single
    next => exact .refl
  case intervalTimeout i dt =>
    refine (State.Effects.elapse s i dt).trans ?_
    dsimp only
    split
    next k d hk hd => split <;> [exact (State.Effect.lane i (.interval d k 8192 hd hk)).single; exact .refl]
    next => exact .refl
  case grant => exact State.Effect.grant.single
  case mergeEnd =>
    split
    next h hphase hhand =>
      obtain ⟨heq, -⟩ := State.advanceMerge_frame s h (h.attempt.dataLength + 2)
      refine (State.Effect.advance h _ hphase hhand).single.trans (State.Effect.endMerge h ?_ ?_).single
      · rw [heq]; exact hphase
      · rw [heq]; exact hhand
    next => exact .refl
  case evaluationCompletion =>
    split
    next h hphase hhand => exact (State.Effect.evaluation h hphase hhand).single
    next => exact .refl
  case passCompletion i =>
    split
    next h => exact (State.Effect.complete i h).single
    next => exact .refl
  case dataPhaseEnd p =>
    split
    · exact .refl
    · exact .refl
    · exact .setPort s p _

/-- What every effect keeps, every step keeps. -/
theorem step_keeps {P : State → Prop} (hpending : ∀ s rest, P s → P { s with pending := rest })
    (heffect : ∀ s t, s.Effect t → P s → P t) {s t : State} (h : step s = .next t) (hs : P s) : P t := by
  have hchain : ∀ {s t : State}, s.Effects t → P s → P t := fun hst hs => by
    induction hst with
    | refl => exact hs
    | tail _ he ih => exact heffect _ _ he ih
  unfold step at h
  split at h
  · cases h
    exact hchain (State.Effects.tick s) hs
  · rename_i c rest _
    obtain ⟨u, hu, he⟩ := exec_effects c { s with pending := rest }
    rw [hu] at h
    cases h
    exact hchain he (hpending s rest hs)

end Sys2Proof.Machine
end

section
/-! SUPPORT. The tables stay canonical with distinct keys (R99, R102, R110): what a put does to the keys of a table, the two
invariants under each operation on the tables, and the obligation they settle. -/

namespace Sys2Proof.Machine

/-! ## Members and keys of a table after a put -/

section tables
variable {α β : Type} {b : Nat} {t : Table α}

theorem Table.lt_of_get (hw : Table.wf b t = true) {k : Nat} {v : α} (h : Table.get t k = some v) : k < b :=
  ((Table.wf_iff b t).1 hw).1 _ (Table.mem_of_get h)

/-- A put under a listed number keeps the list of any value in which the new record agrees with the old. -/
theorem Table.map_put_old (hw : Table.wf b t = true) {k : Nat} {w v : α} (h : Table.get t k = some w) {f : α → β}
    (hf : f v = f w) : (Table.put t k v).map (fun e => f e.2) = t.map fun e => f e.2 := by
  have hp := ((Table.wf_iff b t).1 hw).2
  clear hw
  induction t with
  | nil => cases h
  | cons x t ih =>
    obtain ⟨j, u⟩ := x
    rw [List.pairwise_cons] at hp
    rw [Table.get_cons] at h
    split at h
    next hj =>
      cases h
      subst hj
      simp [Table.put, hf]
    next hj =>
      have hlt : j < k := hp.1 _ (Table.mem_of_get h)
      rw [Table.put, if_neg (by omega), if_neg (Ne.symm hj), List.map_cons, List.map_cons, ih h hp.2]

/-- A put under a number not listed adds the record. -/
theorem Table.put_perm {k : Nat} (h : Table.get t k = none) (v : α) : (Table.put t k v).Perm ((k, v) :: t) := by
  induction t with
  | nil => exact .refl _
  | cons x t ih =>
    obtain ⟨j, w⟩ := x
    rw [Table.get_cons] at h
    split at h
    next => cases h
    next hj =>
      rw [Table.put]
      split
      · exact .refl _
      · rw [if_neg (Ne.symm hj)]
        exact ((ih h).cons _).trans (.swap _ _ _)

end tables

/-! ## The invariant under the operations on the tables -/

/-- The tables are canonical and, under the condition `k`, their keys are distinct. -/
def State.Tables (k : Prop) (s : State) : Prop := s.TablesCanonical ∧ (k → s.KeysDistinct)

section operations
variable {k : Prop} {s : State}

/-- A record put in place of one of the same key. -/
theorem State.Tables.setEntry (h : s.Tables k) {i : Nat} {e e' : Entry} (hget : Table.get s.entries i = some e)
    (hkey : e'.key = e.key) : (s.setEntry i e').Tables k := by
  obtain ⟨⟨hentries, htracks, hslots, hfree⟩, hkeys⟩ := h
  refine ⟨⟨Table.wf_put hentries (Table.lt_of_get hentries hget) e', htracks, hslots, ?_⟩,
    fun hk => ⟨?_, (hkeys hk).2⟩⟩
  · rw [State.setEntry_entries, Table.length_put_old hentries hget]
    exact hfree
  · rw [State.setEntry_entries, Table.map_put_old (f := Entry.key) hentries hget hkey]
    exact (hkeys hk).1

theorem State.Tables.setTrack (h : s.Tables k) {j : Nat} {r r' : Track} (hget : Table.get s.tracks j = some r)
    (hkey : r'.key = r.key) : (s.setTrack j r').Tables k := by
  obtain ⟨⟨hentries, htracks, hslots, hfree⟩, hkeys⟩ := h
  refine ⟨⟨hentries, Table.wf_put htracks (Table.lt_of_get htracks hget) r', hslots, hfree⟩,
    fun hk => ⟨(hkeys hk).1, ?_⟩⟩
  rw [State.setTrack_tracks, Table.map_put_old (f := Track.key) htracks hget hkey]
  exact (hkeys hk).2

theorem State.Tables.setSlot (h : s.Tables k) {i : Nat} (hi : i < 4096) (x : Slot) : (s.setSlot i x).Tables k := by
  obtain ⟨⟨hentries, htracks, hslots, hfree⟩, hkeys⟩ := h
  exact ⟨⟨hentries, htracks, Table.wf_put hslots hi x, hfree⟩, hkeys⟩

/-- A record of a new key put under a free number takes one of the FREE entries. -/
theorem State.Tables.newEntry (h : s.Tables k) {i : Nat} {e : Entry} (hi : i < 4096)
    (hget : Table.get s.entries i = none) (hnew : ∀ x ∈ s.entries, x.2.key ≠ e.key) :
    ({ s.setEntry i e with freeEntries := s.freeEntries - 1 } : State).Tables k := by
  obtain ⟨⟨hentries, htracks, hslots, hfree⟩, hkeys⟩ := h
  have hroom := Table.length_lt hentries hi hget
  refine ⟨⟨Table.wf_put hentries hi e, htracks, hslots, ?_⟩, fun hk => ⟨?_, (hkeys hk).2⟩⟩
  · change s.freeEntries - 1 + (Table.put s.entries i e).length = 4096
    rw [Table.length_put_new hget]
    omega
  · change ((Table.put s.entries i e).map fun x => x.2.key).Nodup
    rw [((Table.put_perm hget e).map _).nodup_iff, List.map_cons, List.nodup_cons]
    exact ⟨fun hmem => by obtain ⟨x, hx, hxk⟩ := List.mem_map.1 hmem; exact hnew x hx hxk, (hkeys hk).1⟩

theorem State.Tables.newTrack (h : s.Tables k) {j : Nat} {r : Track} (hj : j < 512)
    (hget : Table.get s.tracks j = none) (hnew : ∀ x ∈ s.tracks, x.2.key ≠ r.key) : (s.setTrack j r).Tables k := by
  obtain ⟨⟨hentries, htracks, hslots, hfree⟩, hkeys⟩ := h
  refine ⟨⟨hentries, Table.wf_put htracks hj r, hslots, hfree⟩, fun hk => ⟨(hkeys hk).1, ?_⟩⟩
  change ((Table.put s.tracks j r).map fun x => x.2.key).Nodup
  rw [((Table.put_perm hget r).map _).nodup_iff, List.map_cons, List.nodup_cons]
  exact ⟨fun hmem => by obtain ⟨x, hx, hxk⟩ := List.mem_map.1 hmem; exact hnew x hx hxk, (hkeys hk).2⟩

/-- R110: an entry taken out of the table is a FREE one again. -/
theorem State.Tables.freeEntry (h : s.Tables k) {i : Nat} {e : Entry} (hget : Table.get s.entries i = some e) :
    (s.freeEntry i e).Tables k := by
  obtain ⟨⟨hentries, htracks, hslots, hfree⟩, hkeys⟩ := h
  rw [State.freeEntry_eq]
  refine ⟨⟨Table.wf_drop hentries i, htracks, hslots, ?_⟩,
    fun hk => ⟨(hkeys hk).1.sublist ((Table.drop_sublist _ i).map _), (hkeys hk).2⟩⟩
  have := Table.length_drop hget
  dsimp only
  omega

/-- R97: a close takes whole records out of the tables. -/
theorem State.Tables.closeNow (h : s.Tables k) (v : Fin 8) : (s.closeNow v).Tables k := by
  obtain ⟨⟨hentries, htracks, hslots, hfree⟩, hkeys⟩ := h
  refine ⟨⟨Table.wf_filter hentries _, Table.wf_filter htracks _, hslots, ?_⟩,
    fun hk => ⟨(hkeys hk).1.sublist (List.filter_sublist.map _), (hkeys hk).2.sublist (List.filter_sublist.map _)⟩⟩
  have := List.length_filter_le (fun e => e.2.key.track.volume != v) s.entries
  change s.freeEntries + (s.entries.length - (s.entries.filter _).length) + (s.entries.filter _).length = 4096
  omega

theorem State.Tables.noteTrack (h : s.Tables k) {j : Nat} {r r' : Track} (hget : Table.get s.tracks j = some r)
    (hkey : r'.key = r.key) : (s.noteTrack j r').Tables k := by
  obtain ⟨heq, -⟩ | ⟨-, -, heq⟩ := State.noteTrack_cases s j r'
  · rw [heq]
    exact h.setTrack hget hkey
  · rw [heq]
    exact h.setTrack (r' := { r' with done := true }) hget hkey

/-- The record of a key that is found is listed under its number. -/
theorem State.get_of_findTrack (hw : s.TablesCanonical) {key : TrackKey} {j : Nat} {r : Track}
    (hf : s.findTrack key = some (j, r)) : Table.get s.tracks j = some r := by
  obtain ⟨-, hmem⟩ := State.findTrack_some hf
  obtain ⟨-, htracks, -, -⟩ := hw
  exact Table.get_of_mem htracks hmem

theorem State.get_of_findEntry (hw : s.TablesCanonical) {key : SectorKey} {i : Nat} {e : Entry}
    (hf : s.findEntry key = some (i, e)) : Table.get s.entries i = some e := by
  obtain ⟨-, hmem⟩ := State.findEntry_some hf
  obtain ⟨hentries, -, -, -⟩ := hw
  exact Table.get_of_mem hentries hmem

theorem State.Tables.releaseNow (h : s.Tables k) {i : Nat} {e : Entry} (hget : Table.get s.entries i = some e) :
    (s.releaseNow i e).Tables k := by
  cases hf : s.findTrack e.key.track with
  | none =>
    unfold State.releaseNow
    rw [hf]
    exact h.freeEntry hget
  | some x =>
    rw [State.releaseNow_of_findTrack hf]
    exact (h.freeEntry hget).noteTrack (r := x.2) (State.get_of_findTrack h.1 hf) rfl

/-! ## Grants -/

/-- The state in which a granted attempt is classified: it has left its queue, and the arbiter has counted the grant. -/
def State.popped (s : State) (l : Fin 4) (arb : Arbiter) (rest : List Attempt) : State :=
  { s.setLane l { s.lanes[l] with queue := rest } with arbiter := arb.afterGrant rest.length }

theorem State.grantOne_popped (s : State) :
    s.grantOne = s
      ∨ ∃ l arb a rest, s.engine.busy = false ∧ s.burst = some (l, arb) ∧ (s.lanes[l]).queue = a :: rest
          ∧ s.grantOne = (s.popped l arb rest).receive a :=
  s.grantOne_cases

theorem State.Tables.discardSurplus (h : s.Tables k) (v : Fin 8) {entry : Option (Nat × Entry)}
    (hentry : ∀ x, entry = some x → Table.get s.entries x.1 = some x.2) : (s.discardSurplus v entry).Tables k := by
  cases entry with
  | none => exact h
  | some x => exact State.Tables.setEntry (s := s.setVolume v _) h (hentry x rfl) rfl

theorem State.Tables.startMerge (h : s.Tables k) {i : Nat} {e : Entry} (hget : Table.get s.entries i = some e)
    (a : Attempt) : (s.startMerge i e a).Tables k :=
  State.Tables.setEntry (e' := { e with busy := true }) h hget rfl

/-- The table-low test moves only the warning and the flags. -/
theorem State.testLow_cases (s : State) :
    s.testLow = s ∨ (s.freeEntries < s.settings.lowThreshold ∧ s.lowWarning = false
      ∧ s.testLow = { s.raise .tableLow with lowWarning := true }) := by
  unfold State.testLow
  split
  next h => exact .inr ⟨h.1, h.2, rfl⟩
  next => exact .inl rfl

theorem State.testLow_same (s : State) : s.SameBlocks s.testLow := by
  obtain h | ⟨-, -, h⟩ := s.testLow_cases <;> rw [h] <;> rfl

/-- The track record an allocation uses: the one found, or a fresh one under the lowest free number. -/
theorem State.trackFor_some {key : TrackKey} {j : Nat} {r : Track} (h : s.trackFor key = some (j, r)) :
    s.findTrack key = some (j, r)
      ∨ (s.findTrack key = none ∧ r = Track.fresh key ∧ Table.lowestFree s.tracks 512 0 = some j) := by
  unfold State.trackFor at h
  split at h
  next hf => exact .inl (hf.trans h)
  next hf =>
    split at h
    next hfree => cases h; exact .inr ⟨hf, rfl, hfree⟩
    next => cases h

/-- All that an attempt for a sector without an entry can come to. -/
theorem State.accommodate_cases (s : State) (a : Attempt) :
    s.accommodate a = s.discardTableFull a.key.track.volume
      ∨ ∃ j r i, s.trackFor a.key.track = some (j, r) ∧ Table.lowestFree s.entries 4096 0 = some i
          ∧ s.accommodate a = (s.allocate j r i a).startMerge i (Entry.fresh a s.settings.confirmTarget) a := by
  unfold State.accommodate
  split
  next => exact .inl rfl
  next j r htrack =>
    split
    next => exact .inl rfl
    next i hfree => exact .inr ⟨j, r, i, htrack, hfree, rfl⟩

/-- Steps 3 and 4 of R107 before the table-low test. -/
def State.allocated (s : State) (j : Nat) (r : Track) (i : Nat) (a : Attempt) : State :=
  { ((((s.setTrack j { r with live := r.live + 1 }).setVolume a.key.track.volume
      { s.volumes[a.key.track.volume] with live := (s.volumes[a.key.track.volume]).live + 1 }).setEntry i
        (Entry.fresh a s.settings.confirmTarget)).setSlot i (Slot.fresh a.dataLength)) with
    freeEntries := s.freeEntries - 1 }

theorem State.allocate_eq (s : State) (j : Nat) (r : Track) (i : Nat) (a : Attempt) :
    s.allocate j r i a = (s.allocated j r i a).testLow := rfl

theorem State.allocate_same (s : State) (j : Nat) (r : Track) (i : Nat) (a : Attempt) :
    (s.allocated j r i a).SameBlocks (s.allocate j r i a) :=
  State.testLow_same _

theorem State.Tables.of_same {t : State} (h : s.Tables k) (hst : s.SameBlocks t) : t.Tables k := by
  rw [hst]
  exact h

theorem State.Tables.allocated (h : s.Tables k) {a : Attempt} {j : Nat} {r : Track} {i : Nat}
    (htrack : s.trackFor a.key.track = some (j, r)) (hfree : Table.lowestFree s.entries 4096 0 = some i)
    (hnew : ∀ x ∈ s.entries, x.2.key ≠ a.key) : (s.allocated j r i a).Tables k := by
  obtain ⟨-, hi, hget, -⟩ := Table.lowestFree_some hfree
  have hi : i < 4096 := by omega
  have htracks : (s.setTrack j { r with live := r.live + 1 }).Tables k := by
    obtain hf | ⟨hf, rfl, hlow⟩ := State.trackFor_some htrack
    · exact h.setTrack (State.get_of_findTrack h.1 hf) rfl
    · obtain ⟨-, hj, hnone, -⟩ := Table.lowestFree_some hlow
      exact h.newTrack (by omega) hnone (State.findTrack_none.1 hf)
  have hentries := State.Tables.newEntry (e := Entry.fresh a s.settings.confirmTarget) htracks hi hget hnew
  exact State.Tables.setSlot (s := { (s.setTrack j { r with live := r.live + 1 }).setEntry i
    (Entry.fresh a s.settings.confirmTarget) with freeEntries := s.freeEntries - 1 }) hentries hi _

theorem State.Tables.receive (h : s.Tables k) (a : Attempt) : (s.receive a).Tables k := by
  obtain ⟨-, heq⟩ | ⟨-, ⟨i, e, hf, hknown⟩ | ⟨hf, heq⟩⟩ := State.receive_cases s a
  · rw [heq]
    exact h.discardSurplus _ (by simp)
  · have hget := State.get_of_findEntry h.1 hf
    obtain ⟨heq, -⟩ | ⟨heq, -⟩ | ⟨heq, -⟩ := hknown <;> rw [heq]
    · exact h.discardSurplus _ (by rintro _ ⟨⟩; exact hget)
    · exact h.setEntry hget rfl
    · exact h.startMerge hget a
  · rw [heq]
    obtain heq | ⟨j, r, i, htrack, hfree, heq⟩ := State.accommodate_cases s a <;> rw [heq]
    · exact h
    · have halloc : (s.allocate j r i a).Tables k :=
        (h.allocated htrack hfree (State.findEntry_none.1 hf)).of_same (State.allocate_same _ _ _ _ _)
      refine halloc.startMerge ?_ a
      rw [State.allocate_same s j r i a]
      exact Table.get_put_same _ _ _

/-! ## The engine -/

theorem State.Tables.advanceMerge (h : s.Tables k) (hand : Hand) (upTo : Nat) : (s.advanceMerge hand upTo).Tables k := by
  unfold State.advanceMerge
  split
  next => exact h
  next x hx => exact h.setSlot (Table.lt_of_get h.1.2.2.1 hx) _

/-- A merge's end leaves the key of the entry. -/
theorem Entry.meetWitness_key (e : Entry) (witness : Option (List Byte)) (bytes : List Byte) :
    (e.meetWitness witness bytes).key = e.key := by
  unfold Entry.meetWitness
  split
  · rfl
  · (repeat' split) <;> rfl

theorem State.Tables.endMerge (h : s.Tables k) (hand : Hand) : (s.endMerge hand).Tables k := by
  unfold State.endMerge
  split
  next e x he hx =>
    have hkey : (if hand.attempt.crcGood = true then
        (e.countMerge hand.attempt.crcGood).meetWitness x.witness hand.attempt.bytes
        else e.countMerge hand.attempt.crcGood).key = e.key := by
      split
      · exact Entry.meetWitness_key _ _ _
      · rfl
    exact (h.setEntry he hkey).setSlot (Table.lt_of_get h.1.1 he) _
  next => exact h

theorem State.Tables.noteStatus (h : s.Tables k) (key : SectorKey) (l : Fin 4) (old new : Status) :
    (s.noteStatus key l old new).Tables k := by
  unfold State.noteStatus
  split
  next => exact h
  next =>
    split
    next =>
      unfold State.noteSettled
      dsimp only
      split
      next j r hf =>
        refine State.Tables.noteTrack (r := r) ?_ ?_ rfl
        · exact h
        · exact State.get_of_findTrack h.1 hf
      next => exact h
    next => exact h
    next => exact h

theorem State.Tables.withEngine (h : s.Tables k) (x : Engine) : ({ s with engine := x } : State).Tables k := h

theorem State.Tables.completeEvaluation (h : s.Tables k) (hand : Hand) : (s.completeEvaluation hand).Tables k := by
  unfold State.completeEvaluation
  split
  next e x he hx =>
    refine State.Tables.withEngine (State.Tables.noteStatus ?_ _ _ _ _) _
    exact State.Tables.setSlot (State.Tables.setEntry h he (by rfl)) (Table.lt_of_get h.1.1 he) _
  next => exact h

/-- Every effect keeps the tables canonical and their keys distinct. -/
theorem State.Tables.effect {t : State} (he : s.Effect t) (h : s.Tables k) : t.Tables k := by
  cases he with
  | outside hst => exact h.of_same hst
  | lane | settings | profile | preset | openVolume | abort => exact h
  | closeVolume v => exact h.closeNow v
  | release i e hget => exact h.releaseNow hget
  | reset =>
    refine ⟨⟨rfl, rfl, h.1.2.2.1, rfl⟩, fun _ => ⟨List.nodup_nil, List.nodup_nil⟩⟩
  | complete i =>
    unfold State.completePass State.raiseCompletion
    dsimp only
    (repeat' split) <;> exact h
  | grant =>
    obtain heq | ⟨l, arb, a, rest, -, -, -, heq⟩ := s.grantOne_popped <;> rw [heq]
    · exact h
    · exact State.Tables.receive (s := s.popped l arb rest) h a
  | advance hand upTo => exact h.advanceMerge hand upTo
  | endMerge hand => exact h.endMerge hand
  | evaluation hand => exact h.completeEvaluation hand

end operations

/-- Settles O52: every effect keeps the tables, by the case of each operation on them. -/
theorem tablesStayCanonicalWithDistinctKeys : Obligations.TablesStayCanonicalWithDistinctKeys := by
  intro s t hcanonical hkeys hstep
  obtain ⟨hcanonical', hkeys'⟩ := step_keeps (P := State.Tables True) (fun _ _ h => h)
    (fun _ _ he h => State.Tables.effect he h) hstep ⟨hcanonical, fun _ => hkeys⟩
  exact ⟨hcanonical', hkeys' trivial⟩

end Sys2Proof.Machine
end

section
/-! SUPPORT. The busy entry is the one in the engine's hand (R103, R118): what a close and a release leave in the sector
table, the invariant under each operation on entries and engine, and the obligation they settle. -/

namespace Sys2Proof.Machine

/-! ## Tables with records taken out -/

/-- In canonical form a number reads as a record exactly when the record is listed under it. -/
theorem Table.get_eq_some_iff {α : Type} {b : Nat} {t : Table α} (hw : Table.wf b t = true) {k : Nat} {v : α} :
    Table.get t k = some v ↔ (k, v) ∈ t :=
  ⟨Table.mem_of_get, Table.get_of_mem hw⟩

theorem Table.get_filter {α : Type} {b : Nat} {t : Table α} (hw : Table.wf b t = true) (f : Nat × α → Bool) {k : Nat}
    {v : α} : Table.get (t.filter f) k = some v ↔ Table.get t k = some v ∧ f (k, v) = true := by
  rw [Table.get_eq_some_iff (Table.wf_filter hw f), Table.get_eq_some_iff hw, List.mem_filter]

theorem Table.get_drop {α : Type} {b : Nat} {t : Table α} (hw : Table.wf b t = true) {i k : Nat} {v : α} :
    Table.get (Table.drop t i) k = some v ↔ k ≠ i ∧ Table.get t k = some v := by
  by_cases hk : k = i
  · subst hk
    simp [Table.get_drop_same hw]
  · simp [hk, Table.get_drop_ne t i k hk]

theorem Table.get_put {α : Type} (t : Table α) (i k : Nat) (v : α) :
    Table.get (Table.put t i v) k = if k = i then some v else Table.get t k := by
  split
  next h => rw [h, Table.get_put_same]
  next h => exact Table.get_put_ne t i k v h

/-! ## What operations leave alone -/

/-- Storing a track record leaves everything but the tracks, the volumes and the flags. -/
theorem State.noteTrack_frame (s : State) (j : Nat) (r : Track) :
    s.noteTrack j r =
      { s with
        tracks := (s.noteTrack j r).tracks, volumes := (s.noteTrack j r).volumes, bay := (s.noteTrack j r).bay
        station := (s.noteTrack j r).station } := by
  obtain ⟨heq, -⟩ | ⟨-, -, heq⟩ := State.noteTrack_cases s j r <;> rw [heq] <;> rfl

/-- A release takes its entry out of the table and leaves candidate memory, the engine and the lanes. -/
theorem State.releaseNow_frame (s : State) (i : Nat) (e : Entry) :
    s.releaseNow i e =
      { s with
        entries := Table.drop s.entries i, freeEntries := s.freeEntries + 1
        tracks := (s.releaseNow i e).tracks, volumes := (s.releaseNow i e).volumes
        lowWarning := (s.releaseNow i e).lowWarning
        bay := (s.releaseNow i e).bay, station := (s.releaseNow i e).station } := by
  cases hf : s.findTrack e.key.track with
  | none =>
    unfold State.releaseNow
    rw [hf]
    rfl
  | some x =>
    rw [State.releaseNow_of_findTrack hf, State.noteTrack_frame]
    rfl

/-- A pass completion changes its lane and the flags. -/
theorem State.completePass_frame (s : State) (i : Fin 4) :
    s.completePass i =
      { s with lanes := (s.completePass i).lanes, bay := (s.completePass i).bay, station := (s.completePass i).station } := by
  unfold State.completePass State.raiseCompletion
  dsimp only
  (repeat' split) <;> rfl

/-- The engine holds no attempt of a volume that is not busy. -/
theorem State.hand_of_volumeFree {s : State} {v : Fin 8} (h : s.volumeBusy v = false) {hand : Hand}
    (hhand : s.engine.hand = some hand) : hand.attempt.key.track.volume ≠ v := by
  simp only [State.volumeBusy, Bool.or_eq_false_iff, Engine.holdsVolume, hhand] at h
  simpa using h.2

/-! ## The engine's hand -/

/-- Nothing is in the engine's hand, and no entry is busy. -/
def State.Resting (s : State) : Prop :=
  s.engine.phase = .idle ∧ s.engine.hand = none ∧ ∀ i e, Table.get s.entries i = some e → e.busy = false

theorem State.BusyEntryInHand.of_resting {s : State} (h : s.Resting) : s.BusyEntryInHand := by
  obtain ⟨hphase, hhand, hbusy⟩ := h
  refine ⟨⟨fun _ => hhand, fun _ => hphase⟩, fun hand hh => ?_, fun i e he hb => ?_⟩
  · rw [hhand] at hh
    cases hh
  · rw [hbusy i e he] at hb
    cases hb

/-- With the engine idle no entry is busy. -/
theorem State.BusyEntryInHand.resting {s : State} (h : s.BusyEntryInHand) (hidle : s.engine.busy = false) :
    s.Resting := by
  obtain ⟨hphase, -, hbusy⟩ := h
  have hidle : s.engine.phase = .idle := by simpa [Engine.busy] using hidle
  have hhand := hphase.1 hidle
  refine ⟨hidle, hhand, fun i e he => Bool.eq_false_iff.2 fun hb => ?_⟩
  obtain ⟨hand, hh, -⟩ := hbusy i e he hb
  rw [hhand] at hh
  cases hh

theorem State.Resting.setEntry {s : State} (h : s.Resting) (i : Nat) {e : Entry} (he : e.busy = false) :
    (s.setEntry i e).Resting := by
  obtain ⟨hphase, hhand, hbusy⟩ := h
  refine ⟨hphase, hhand, fun k f hf => ?_⟩
  rw [State.setEntry_entries, Table.get_put] at hf
  split at hf
  next => cases hf; exact he
  next => exact hbusy k f hf

/-- R103, R119: the entry of the attempt that a merge begins with is the only busy one. -/
theorem State.BusyEntryInHand.startMerge {s : State} {i : Nat} {e : Entry} {a : Attempt}
    (hothers : ∀ k f, k ≠ i → Table.get s.entries k = some f → f.busy = false) (hkey : e.key = a.key)
    (hstatus : e.status = .opened ∨ e.status = .provisional) : (s.startMerge i e a).BusyEntryInHand := by
  refine ⟨⟨nofun, nofun⟩, ?_, fun k f hf hb => ?_⟩
  · rintro _ ⟨⟩
    exact ⟨_, Table.get_put_same _ _ _, rfl, hkey, hstatus⟩
  · by_cases hk : k = i
    · exact ⟨_, rfl, hk.symm⟩
    · have hf : Table.get (Table.put s.entries i { e with busy := true }) k = some f := hf
      rw [Table.get_put_ne _ _ _ _ hk] at hf
      rw [hothers k f hk hf] at hb
      cases hb

theorem Status.of_not_settled_or_conflict {x : Status} (h : ¬ (x = .settled ∨ x = .conflict)) :
    x = .opened ∨ x = .provisional := by
  cases x <;> simp_all

theorem State.BusyEntryInHand.receive {s : State} (h : s.Resting) (hw : s.TablesCanonical) (a : Attempt) :
    (s.receive a).BusyEntryInHand := by
  have ⟨_, _, hbusy⟩ := h
  obtain ⟨-, heq⟩ | ⟨-, ⟨i, e, hf, hknown⟩ | ⟨hf, heq⟩⟩ := State.receive_cases s a
  · rw [heq]
    exact .of_resting h
  · have hrest := hbusy i e (State.get_of_findEntry hw hf)
    obtain ⟨heq, -⟩ | ⟨heq, -⟩ | ⟨heq, hstatus, -⟩ := hknown <;> rw [heq]
    · exact .of_resting (State.Resting.setEntry (s := s.setVolume a.key.track.volume _) h i hrest)
    · exact .of_resting (h.setEntry i hrest)
    · exact .startMerge (fun k f _ hkf => hbusy k f hkf) (State.findEntry_some hf).1
        (Status.of_not_settled_or_conflict hstatus)
  · rw [heq]
    obtain heq | ⟨j, r, i, -, -, heq⟩ := State.accommodate_cases s a <;> rw [heq]
    · exact .of_resting h
    · refine .startMerge (fun k f hk hkf => ?_) rfl (.inl rfl)
      rw [State.allocate_same s j r i a] at hkf
      have hkf : Table.get (Table.put s.entries i _) k = some f := hkf
      rw [Table.get_put_ne _ _ _ _ hk] at hkf
      exact hbusy k f hkf

/-- The witness at the merge leaves key, status and the busy flag. -/
theorem Entry.meetWitness_frame (e : Entry) (witness : Option (List Byte)) (bytes : List Byte) :
    let e' := e.meetWitness witness bytes
    e'.key = e.key ∧ e'.status = e.status ∧ e'.busy = e.busy ∧ e'.dataLength = e.dataLength
      ∧ e'.deleted = e.deleted := by
  dsimp only
  unfold Entry.meetWitness
  split
  · exact ⟨rfl, rfl, rfl, rfl, rfl⟩
  · (repeat' split) <;> exact ⟨rfl, rfl, rfl, rfl, rfl⟩

/-- The entry record after the merge of an attempt (R131, R133 to R136). -/
def Entry.afterMerge (e : Entry) (witness : Option (List Byte)) (a : Attempt) : Entry :=
  if a.crcGood then (e.countMerge a.crcGood).meetWitness witness a.bytes else e.countMerge a.crcGood

/-- The slot's witness after the merge of an attempt (R133 to R136). -/
def Slot.afterMerge (x : Slot) (e : Entry) (a : Attempt) : Slot :=
  if a.crcGood then { x with witness := witnessAfter e x.witness a.bytes } else x

theorem Entry.afterMerge_frame (e : Entry) (witness : Option (List Byte)) (a : Attempt) :
    let e' := e.afterMerge witness a
    e'.key = e.key ∧ e'.status = e.status ∧ e'.busy = e.busy ∧ e'.dataLength = e.dataLength
      ∧ e'.deleted = e.deleted := by
  dsimp only
  unfold Entry.afterMerge
  split
  · exact Entry.meetWitness_frame _ _ _
  · exact ⟨rfl, rfl, rfl, rfl, rfl⟩

/-- The merge's end stores entry and slot and moves the engine on, where both are listed. -/
theorem State.endMerge_cases (s : State) (h : Hand) :
    (s.endMerge h = s ∧ (Table.get s.entries h.entry = none ∨ Table.get s.slots h.entry = none))
      ∨ ∃ e x, Table.get s.entries h.entry = some e ∧ Table.get s.slots h.entry = some x
          ∧ s.endMerge h =
              { (s.setEntry h.entry (e.afterMerge x.witness h.attempt)).setSlot h.entry (x.afterMerge e h.attempt) with
                engine := { s.engine with phase := .evaluation } } := by
  unfold State.endMerge
  split
  next e x he hx => exact .inr ⟨e, x, he, hx, rfl⟩
  next hnone =>
    refine .inl ⟨rfl, ?_⟩
    cases he : Table.get s.entries h.entry with
    | none => exact .inl rfl
    | some e =>
      cases hx : Table.get s.slots h.entry with
      | none => exact .inr rfl
      | some x => exact absurd hx (hnone e x he)

/-- The evaluation's completion stores entry and slot, notes the change of status and releases the engine, where both
are listed. -/
theorem State.completeEvaluation_cases (s : State) (h : Hand) :
    (s.completeEvaluation h = s ∧ (Table.get s.entries h.entry = none ∨ Table.get s.slots h.entry = none))
      ∨ ∃ e x d e', Table.get s.entries h.entry = some e ∧ Table.get s.slots h.entry = some x
          ∧ d = e.decide (s.profileOf e.key.track.volume) x s.engine.margin s.engine.depth s.engine.quorum
          ∧ e' = e.evaluated d x.lists (contestedSet s.engine.margin x.lists)
          ∧ s.completeEvaluation h =
              { ((s.setEntry h.entry e').setSlot h.entry ⟨x.lists, d.witness, d.image⟩).noteStatus e.key
                  h.attempt.lane e.status e'.status with
                engine := s.engine.release } := by
  unfold State.completeEvaluation
  split
  next e x he hx => exact .inr ⟨e, x, _, _, he, hx, rfl, rfl, rfl⟩
  next hnone =>
    refine .inl ⟨rfl, ?_⟩
    cases he : Table.get s.entries h.entry with
    | none => exact .inl rfl
    | some e =>
      cases hx : Table.get s.slots h.entry with
      | none => exact .inr rfl
      | some x => exact absurd hx (hnone e x he)

theorem State.BusyEntryInHand.effect {s t : State} (he : s.Effect t) (h : s.BusyEntryInHand)
    (hw : s.TablesCanonical) : t.BusyEntryInHand := by
  have ⟨hphase, hheld, hbusy⟩ := h
  have ⟨hentries, _⟩ := hw
  cases he with
  | outside hst =>
    rw [hst]
    exact h
  | lane | settings | profile | preset | openVolume | abort => exact h
  | closeVolume v hfree =>
    have hget {k : Nat} {f : Entry} : Table.get (s.closeNow v).entries k = some f
        ↔ Table.get s.entries k = some f ∧ (f.key.track.volume != v) = true := Table.get_filter hentries _
    refine ⟨hphase, fun hand hh => ?_, fun k f hf hb => hbusy k f (hget.1 hf).1 hb⟩
    obtain ⟨e, hge, hb, hkey, hstatus⟩ := hheld hand hh
    refine ⟨e, hget.2 ⟨hge, ?_⟩, hb, hkey, hstatus⟩
    rw [hkey]
    simpa using State.hand_of_volumeFree hfree hh
  | release i e hgete hresting =>
    rw [State.releaseNow_frame]
    refine ⟨hphase, fun hand hh => ?_, fun k f hf hb => hbusy k f ((Table.get_drop hentries).1 hf).2 hb⟩
    obtain ⟨f, hge, hb, hrest⟩ := hheld hand hh
    refine ⟨f, (Table.get_drop hentries).2 ⟨?_, hge⟩, hb, hrest⟩
    intro heq
    rw [heq, hgete] at hge
    cases hge
    rw [hresting] at hb
    cases hb
  | reset => exact ⟨⟨fun _ => rfl, fun _ => rfl⟩, nofun, nofun⟩
  | complete i =>
    rw [State.completePass_frame]
    exact h
  | grant =>
    obtain heq | ⟨l, arb, a, rest, hidle, -, -, heq⟩ := s.grantOne_popped <;> rw [heq]
    · exact h
    · have hrest : (s.popped l arb rest).Resting := h.resting hidle
      exact .receive hrest hw a
  | advance hand upTo =>
    obtain ⟨heq, -⟩ := State.advanceMerge_frame s hand upTo
    rw [heq]
    exact h
  | endMerge hand hmerge hhand =>
    obtain ⟨heq, -⟩ | ⟨e, x, hge, -, heq⟩ := s.endMerge_cases hand <;> rw [heq]
    · exact h
    · obtain ⟨hkey, hstatus, hb, -⟩ := Entry.afterMerge_frame e x.witness hand.attempt
      have hsome : s.engine.hand ≠ none := by simp [hhand]
      refine ⟨⟨nofun, fun hnone => absurd hnone hsome⟩, fun hand' hh => ?_, fun k f hf hfb => ?_⟩
      · obtain rfl : hand = hand' := Option.some.inj (hhand.symm.trans hh)
        obtain ⟨f, hgf, hfb, hfkey, hfstatus⟩ := hheld hand hhand
        obtain rfl : e = f := Option.some.inj (hge.symm.trans hgf)
        exact ⟨_, Table.get_put_same _ _ _, hb.trans hfb, hkey.trans hfkey, hstatus ▸ hfstatus⟩
      · have hf : Table.get (Table.put s.entries hand.entry _) k = some f := hf
        rw [Table.get_put] at hf
        split at hf
        next hk => exact ⟨hand, hhand, hk.symm⟩
        next => exact hbusy k f hf hfb
  | evaluation hand heval hhand =>
    obtain ⟨heq, -⟩ | ⟨e, x, d, e', hge, -, -, he', heq⟩ := s.completeEvaluation_cases hand <;> rw [heq]
    · exact h
    · obtain ⟨hent, -⟩ := State.noteStatus_frame
        ((s.setEntry hand.entry e').setSlot hand.entry ⟨x.lists, d.witness, d.image⟩) e.key hand.attempt.lane e.status
        e'.status
      refine .of_resting ⟨rfl, rfl, fun k f hf => ?_⟩
      have hf : Table.get (Table.put s.entries hand.entry e') k = some f := by rw [← hf]; exact congrArg (Table.get · k) hent.symm
      rw [Table.get_put] at hf
      split at hf
      next =>
        cases hf
        rw [he']
        rfl
      next hk =>
        refine Bool.eq_false_iff.2 fun hb => hk ?_
        obtain ⟨hand', hh, hentry⟩ := hbusy k f hf hb
        rw [hhand] at hh
        cases hh
        exact hentry.symm

/-- Settles O57: every effect keeps the busy entry in hand, in canonical tables. -/
theorem onlyTheEntryInHandIsBusy : Obligations.OnlyTheEntryInHandIsBusy := by
  intro s t hbusy hcanonical hstep
  exact (step_keeps (P := fun s => s.BusyEntryInHand ∧ s.Tables False) (fun _ _ h => h)
    (fun _ _ he h => ⟨h.1.effect he h.2.1, h.2.effect he⟩) hstep ⟨hbusy, hcanonical, False.elim⟩).1

end Sys2Proof.Machine
end

section
/-! SUPPORT. Witness state and status (R132, R144, R152): the witness state stays sound at the merge (R133 to R136) and at the
evaluation (R141 to R148), and the obligation this settles. -/

namespace Sys2Proof.Machine

/-! ## The witness at the merge, case by case -/

section merge
variable (e : Entry) {x : Slot} {a : Attempt}

/-- R133: a CRC-bad attempt leaves the witness state as it stood. -/
theorem Entry.afterMerge_bad (hbad : a.crcGood = false) :
    e.afterMerge x.witness a = e.countMerge a.crcGood ∧ x.afterMerge e a = x := by
  simp [Entry.afterMerge, Slot.afterMerge, hbad]

/-- R133: the first CRC-good attempt becomes the witness. -/
theorem Entry.afterMerge_first (hgood : a.crcGood = true) (hw : x.witness = none) :
    e.afterMerge x.witness a = { e.countMerge a.crcGood with origin := .attempt, confirmations := 1 }
      ∧ x.afterMerge e a = { x with witness := some a.bytes } := by
  simp [Entry.afterMerge, Slot.afterMerge, hgood, hw, Entry.meetWitness, witnessAfter, Entry.takeWitness]

variable {w : List Byte}

/-- R134: an equal attempt confirms the witness. -/
theorem Entry.afterMerge_confirms (hgood : a.crcGood = true) (hw : x.witness = some w) (heq : a.bytes = w) :
    e.afterMerge x.witness a = { e.countMerge a.crcGood with confirmations := satInc 15 e.confirmations }
      ∧ x.afterMerge e a = { x with witness := some w } := by
  simp [Entry.afterMerge, Slot.afterMerge, hgood, hw, Entry.meetWitness, witnessAfter, heq, Entry.countMerge]

/-- R135: a differing attempt replaces a weak witness. -/
theorem Entry.afterMerge_replaces (hgood : a.crcGood = true) (hw : x.witness = some w) (hne : a.bytes ≠ w)
    (hweak : e.confirmations = 0) :
    e.afterMerge x.witness a =
        { e.countMerge a.crcGood with
          origin := .attempt, confirmations := 1, replacements := satInc 255 e.replacements }
      ∧ x.afterMerge e a = { x with witness := some a.bytes } := by
  simp [Entry.afterMerge, Slot.afterMerge, hgood, hw, Entry.meetWitness, witnessAfter, hne, hweak, Entry.countMerge,
    Entry.takeWitness]

/-- R136: a differing attempt is a conflict with a strong witness. -/
theorem Entry.afterMerge_conflicts (hgood : a.crcGood = true) (hw : x.witness = some w) (hne : a.bytes ≠ w)
    (hstrong : 1 ≤ e.confirmations) :
    e.afterMerge x.witness a =
        { e.countMerge a.crcGood with conflicts := satInc 255 e.conflicts, conflictRecorded := true }
      ∧ x.afterMerge e a = { x with witness := some w } := by
  have hnz : e.confirmations ≠ 0 := Nat.one_le_iff_ne_zero.1 hstrong
  simp [Entry.afterMerge, Slot.afterMerge, hgood, hw, Entry.meetWitness, witnessAfter, hne, hnz, Entry.countMerge,
    Entry.recordConflict]

end merge

/-! ## A sound witness state -/

/-- Origin, confirmations and flags of an entry, or of a decision about it, fit its witness (R132, R144). -/
structure WitnessSound (origin : Origin) (confirmations : Nat) (voteConfirm conflictRecorded : Bool)
    (witness : Option (List Byte)) : Prop where
  origin_iff : origin = .none ↔ witness = none
  unconfirmed : witness = none → confirmations = 0
  bound : confirmations ≤ 15
  voted : voteConfirm = true → 1 ≤ confirmations
  recorded : conflictRecorded = true → witness ≠ none

/-- The witness state of an entry. -/
abbrev Entry.WitnessSound (e : Entry) (witness : Option (List Byte)) : Prop :=
  Machine.WitnessSound e.origin e.confirmations e.voteConfirm e.conflictRecorded witness

/-- The witness state that an evaluation decides. -/
abbrev Decision.WitnessSound (d : Decision) : Prop :=
  Machine.WitnessSound d.origin d.confirmations d.voteConfirm d.conflictRecorded d.witness

/-- The statement's invariant in these terms. -/
theorem State.statusFollowsWitness_iff {s : State} :
    s.StatusFollowsWitness ↔
      ∀ i e x, Table.get s.entries i = some e → Table.get s.slots i = some x →
        e.WitnessSound x.witness ∧ (e.busy = false → e.status = e.derivedStatus x.witness) := by
  unfold State.StatusFollowsWitness
  refine ⟨fun h i e x he hx => ?_, fun h i e x he hx => ?_⟩
  · obtain ⟨h1, h2, h3, h4, h5, h6⟩ := h i e x he hx
    exact ⟨⟨h1, h2, h3, h4, h5⟩, h6⟩
  · obtain ⟨⟨h1, h2, h3, h4, h5⟩, h6⟩ := h i e x he hx
    exact ⟨h1, h2, h3, h4, h5, h6⟩

/-- With a witness there is an origin other than NONE, and only the counts can fail to fit. -/
theorem WitnessSound.of_some {origin : Origin} {confirmations : Nat} {voteConfirm conflictRecorded : Bool}
    {w : List Byte} (horigin : origin ≠ .none) (hbound : confirmations ≤ 15)
    (hvoted : voteConfirm = true → 1 ≤ confirmations) :
    WitnessSound origin confirmations voteConfirm conflictRecorded (some w) :=
  ⟨⟨fun h => absurd h horigin, nofun⟩, nofun, hbound, hvoted, fun _ => nofun⟩

section entry
variable {e : Entry}

theorem Entry.WitnessSound.origin_ne {w : List Byte} (h : e.WitnessSound (some w)) : e.origin ≠ .none :=
  fun ho => by cases h.origin_iff.1 ho

/-- Without a witness no vote has been confirmed. -/
theorem Entry.WitnessSound.voteConfirm_eq_false (h : e.WitnessSound none) : e.voteConfirm = false :=
  Bool.eq_false_iff.2 fun hv => by
    have hpos := h.voted hv
    rw [h.unconfirmed rfl] at hpos
    omega

theorem Entry.fresh_witnessSound (a : Attempt) (target : Nat) : (Entry.fresh a target).WitnessSound none :=
  ⟨⟨fun _ => rfl, fun _ => rfl⟩, fun _ => rfl, Nat.zero_le _, nofun, nofun⟩

/-- The merge of an attempt keeps the witness state sound (R133 to R136). -/
theorem Entry.WitnessSound.afterMerge {x : Slot} (h : e.WitnessSound x.witness) (a : Attempt) :
    (e.afterMerge x.witness a).WitnessSound (x.afterMerge e a).witness := by
  have hsat := satInc_spec 15 e.confirmations
  cases hgood : a.crcGood with
  | false =>
    obtain ⟨he, hx⟩ := Entry.afterMerge_bad e (x := x) hgood
    rw [he, hx]
    exact h
  | true =>
    cases hw : x.witness with
    | none =>
      obtain ⟨he, hx⟩ := Entry.afterMerge_first e hgood hw
      rw [← hw, he, hx]
      exact .of_some nofun (Nat.le_add_left 1 14) fun _ => Nat.le_refl 1
    | some w =>
      rw [hw] at h
      by_cases heq : a.bytes = w
      · obtain ⟨he, hx⟩ := Entry.afterMerge_confirms e hgood hw heq
        rw [← hw, he, hx]
        exact .of_some h.origin_ne (hsat.2.2 h.bound) fun hv => (h.voted hv).trans hsat.1
      · obtain hweak | hstrong := Nat.eq_zero_or_pos e.confirmations
        · obtain ⟨he, hx⟩ := Entry.afterMerge_replaces e hgood hw heq hweak
          rw [← hw, he, hx]
          exact .of_some nofun (Nat.le_add_left 1 14) fun _ => Nat.le_refl 1
        · obtain ⟨he, hx⟩ := Entry.afterMerge_conflicts e hgood hw heq hstrong
          rw [← hw, he, hx]
          exact .of_some h.origin_ne h.bound h.voted

/-! ## The evaluation -/

theorem Entry.WitnessSound.unchanged {witness : Option (List Byte)} (h : e.WitnessSound witness) (image : List Byte) :
    (e.unchanged witness image).WitnessSound := h

/-- R142, R143: weighing the vote keeps the witness state sound. -/
theorem Entry.WitnessSound.weighVote {w : List Byte} (h : e.WitnessSound (some w)) (quorum : Nat) (voted : List Byte)
    (good : Bool) : (e.weighVote quorum w voted good).WitnessSound := by
  have hsat := satInc_spec 15 e.confirmations
  unfold Entry.weighVote
  dsimp only
  split
  · exact h.unchanged w
  · split
    · split
      · exact h.unchanged w
      · next hflag =>
        refine .of_some h.origin_ne (hsat.2.2 h.bound) fun _ => ?_
        dsimp only
        unfold satInc
        split
        · omega
        · have := h.bound
          omega
    · split
      · exact .of_some nofun (Nat.le_add_left 1 14) fun _ => Nat.le_refl 1
      · exact .of_some h.origin_ne h.bound h.voted

/-- R145: a vote forms a sound witness; below quorum the vote-confirm flag is still clear. -/
theorem Entry.WitnessSound.formWitness (h : e.WitnessSound none) (quorum : Nat) (voted : List Byte) :
    (e.formWitness quorum voted).WitnessSound := by
  obtain hq | hq := Nat.lt_or_ge e.merged quorum
  · rw [Entry.formWitness_belowQuorum hq]
    refine .of_some nofun (Nat.zero_le _) fun hv => ?_
    have hv : e.voteConfirm = true := hv
    rw [h.voteConfirm_eq_false] at hv
    cases hv
  · rw [Entry.formWitness_atQuorum hq]
    exact .of_some nofun (Nat.le_add_left 1 14) fun _ => Nat.le_refl 1

/-- R148: the repair search forms a weak witness or none. -/
theorem Entry.WitnessSound.repairSearch (h : e.WitnessSound none) (p : Profile) (lists : List (List Candidate))
    (k : List Nat) (depth : Nat) : (e.repairSearch p lists k depth).WitnessSound := by
  unfold Entry.repairSearch
  dsimp only
  split
  · exact h.unchanged (votedImage lists)
  · split
    · exact h.unchanged (votedImage lists)
    · refine .of_some nofun (Nat.zero_le _) fun hv => ?_
      have hv : e.voteConfirm = true := hv
      rw [h.voteConfirm_eq_false] at hv
      cases hv
    · exact h.unchanged (votedImage lists)

/-- R141: whatever course the evaluation takes, the witness state it decides is sound. -/
theorem Entry.WitnessSound.decide {x : Slot} (h : e.WitnessSound x.witness) (p : Profile) (margin depth quorum : Nat) :
    (e.decide p x margin depth quorum).WitnessSound := by
  cases hw : x.witness with
  | some w =>
    rw [Entry.decide_witness hw]
    exact Entry.WitnessSound.weighVote (hw ▸ h) _ _ _
  | none =>
    rw [hw] at h
    by_cases hfull : ∀ l ∈ x.lists, l ≠ []
    · by_cases hgood : p.imageGood e.deleted (votedImage x.lists) = true
      · rw [Entry.decide_good hw hfull hgood]
        exact h.formWitness _ _
      · rw [Entry.decide_bad hw hfull hgood]
        exact h.repairSearch _ _ _ _
    · rw [Entry.decide_blank hw hfull]
      exact h.unchanged _

/-- R152: the status an evaluation writes is the one its witness state gives. -/
theorem Entry.evaluated_status (e : Entry) (d : Decision) (lists : List (List Candidate)) (k : List Nat) :
    (e.evaluated d lists k).status = (e.evaluated d lists k).derivedStatus d.witness := by
  simp only [Entry.evaluated, Decision.status, Entry.derivedStatus]
  cases d.witness <;> rfl

end entry

/-! ## The invariant -/

/-- What an entry stored with the same witness state, and busy or with the same status, is to the invariant. -/
theorem State.StatusFollowsWitness.setEntry {s : State} (h : s.StatusFollowsWitness) {i : Nat} {e : Entry}
    (he : ∀ x, Table.get s.slots i = some x →
      e.WitnessSound x.witness ∧ (e.busy = false → e.status = e.derivedStatus x.witness)) :
    (s.setEntry i e).StatusFollowsWitness := by
  rw [State.statusFollowsWitness_iff] at h ⊢
  intro k f x hf hx
  rw [State.setEntry_entries, Table.get_put] at hf
  split at hf
  next hk =>
    cases hf
    exact he x (hk ▸ hx)
  next => exact h k f x hf hx

/-- An entry and its slot stored together. -/
theorem State.StatusFollowsWitness.setBoth {s : State} (h : s.StatusFollowsWitness) {i : Nat} {e : Entry} {x : Slot}
    (he : e.WitnessSound x.witness) (hstatus : e.busy = false → e.status = e.derivedStatus x.witness) :
    ((s.setEntry i e).setSlot i x).StatusFollowsWitness := by
  rw [State.statusFollowsWitness_iff] at h ⊢
  intro k f y hf hy
  rw [State.setSlot_entries, State.setEntry_entries, Table.get_put] at hf
  rw [State.setSlot_slots, State.setEntry_slots, Table.get_put] at hy
  split at hf
  next hk =>
    rw [if_pos hk] at hy
    cases hf
    cases hy
    exact ⟨he, hstatus⟩
  next hk =>
    rw [if_neg hk] at hy
    exact h k f y hf hy

/-- Entries taken out of the table. -/
theorem State.StatusFollowsWitness.of_fewer {s t : State} (h : s.StatusFollowsWitness)
    (hentries : ∀ k f, Table.get t.entries k = some f → Table.get s.entries k = some f) (hslots : t.slots = s.slots) :
    t.StatusFollowsWitness :=
  fun i e x he hx => h i e x (hentries i e he) (hslots ▸ hx)

theorem State.StatusFollowsWitness.receive {s : State} (h : s.StatusFollowsWitness) (hw : s.TablesCanonical)
    (a : Attempt) : (s.receive a).StatusFollowsWitness := by
  have hof := State.statusFollowsWitness_iff.1 h
  obtain ⟨-, heq⟩ | ⟨-, ⟨i, e, hf, hknown⟩ | ⟨hf, heq⟩⟩ := State.receive_cases s a
  · rw [heq]
    exact h
  · have he := State.get_of_findEntry hw hf
    obtain ⟨heq, -⟩ | ⟨heq, -⟩ | ⟨heq, -⟩ := hknown <;> rw [heq]
    · exact State.StatusFollowsWitness.setEntry (s := s.setVolume a.key.track.volume _) h fun x hx => hof i e x he hx
    · exact h.setEntry fun x hx => hof i e x he hx
    · exact h.setEntry (e := { e with busy := true }) fun x hx => ⟨(hof i e x he hx).1, nofun⟩
  · rw [heq]
    obtain heq | ⟨j, r, i, -, -, heq⟩ := State.accommodate_cases s a <;> rw [heq]
    · exact h
    · have hfresh := Entry.fresh_witnessSound a s.settings.confirmTarget
      have halloc : (s.allocate j r i a).StatusFollowsWitness := by
        rw [State.allocate_same]
        exact h.setBoth (i := i) (x := Slot.fresh a.dataLength) hfresh nofun
      refine halloc.setEntry (e := { Entry.fresh a s.settings.confirmTarget with busy := true }) fun x hx => ?_
      rw [State.allocate_same] at hx
      have hx : Table.get (Table.put s.slots i (Slot.fresh a.dataLength)) i = some x := hx
      rw [Table.get_put_same] at hx
      cases hx
      exact ⟨hfresh, nofun⟩

theorem State.StatusFollowsWitness.effect {s t : State} (he : s.Effect t) (h : s.StatusFollowsWitness)
    (hbusy : s.BusyEntryInHand) (hw : s.TablesCanonical) : t.StatusFollowsWitness := by
  have ⟨_, hheld, _⟩ := hbusy
  have ⟨hentries, _⟩ := hw
  have hof := State.statusFollowsWitness_iff.1 h
  cases he with
  | outside hst =>
    rw [hst]
    exact h
  | lane | settings | profile | preset | openVolume | abort => exact h
  | closeVolume v => exact h.of_fewer (fun k f hf => ((Table.get_filter hentries _).1 hf).1) rfl
  | release i e =>
    rw [State.releaseNow_frame]
    exact h.of_fewer (fun k f hf => ((Table.get_drop hentries).1 hf).2) rfl
  | reset => exact nofun
  | complete i =>
    rw [State.completePass_frame]
    exact h
  | grant =>
    obtain heq | ⟨l, arb, a, rest, -, -, -, heq⟩ := s.grantOne_popped <;> rw [heq]
    · exact h
    · exact State.StatusFollowsWitness.receive (s := s.popped l arb rest) h hw a
  | advance hand upTo =>
    unfold State.advanceMerge
    split
    next => exact h
    next x hx =>
      intro k e y hke hy
      have hy : Table.get (Table.put s.slots hand.entry _) k = some y := hy
      rw [Table.get_put] at hy
      split at hy
      next hk =>
        cases hy
        exact h k e x hke (hk ▸ hx)
      next => exact h k e y hke hy
  | endMerge hand hmerge hhand =>
    obtain ⟨heq, -⟩ | ⟨e, x, hge, hgx, heq⟩ := s.endMerge_cases hand <;> rw [heq]
    · exact h
    · obtain ⟨f, hgf, hfb, -⟩ := hheld hand hhand
      obtain rfl : e = f := Option.some.inj (hge.symm.trans hgf)
      obtain ⟨-, -, hb, -⟩ := Entry.afterMerge_frame e x.witness hand.attempt
      refine h.setBoth ((hof _ e x hge hgx).1.afterMerge hand.attempt) fun hrest => ?_
      rw [hb, hfb] at hrest
      cases hrest
  | evaluation hand heval hhand =>
    obtain ⟨heq, -⟩ | ⟨e, x, d, e', hge, hgx, hd, he', heq⟩ := s.completeEvaluation_cases hand <;> rw [heq]
    · exact h
    · obtain ⟨hent, hslots, -⟩ := State.noteStatus_frame
        ((s.setEntry hand.entry e').setSlot hand.entry ⟨x.lists, d.witness, d.image⟩) e.key hand.attempt.lane e.status
        e'.status
      have hdecided : d.WitnessSound := hd ▸ (hof _ e x hge hgx).1.decide _ _ _ _
      have hboth : ((s.setEntry hand.entry e').setSlot hand.entry ⟨x.lists, d.witness, d.image⟩).StatusFollowsWitness := by
        subst he'
        exact h.setBoth hdecided fun _ => e.evaluated_status d _ _
      exact State.StatusFollowsWitness.of_fewer hboth (fun k f hf => hent ▸ hf) hslots

/-- Settles O58: every effect keeps the witness states sound and the resting statuses derived, the merge because its
entry is busy. -/
theorem statusFollowsTheWitness : Obligations.StatusFollowsTheWitness := by
  intro s t hstatus hbusy hcanonical hstep
  exact (step_keeps (P := fun s => s.StatusFollowsWitness ∧ s.BusyEntryInHand ∧ s.Tables False) (fun _ _ h => h)
    (fun _ _ he ⟨hs, hb, hw⟩ => ⟨hs.effect he hb hw.1, hb.effect he hw.1, hw.effect he⟩) hstep
    ⟨hstatus, hbusy, hcanonical, False.elim⟩).1

end Sys2Proof.Machine
end

section
/-! SUPPORT. What an effect on a lane can do, part by part: an induction over the cells of an interval, the frames of edges,
expiries and completions, and properties of framers and queued attempts that every effect keeps. -/

namespace Sys2Proof.Machine

/-! ## The cells of an interval -/

/-- R66: a request on its way arrives through a finish request, or waits. -/
theorem Lane.requestArrives_cases (l : Lane) :
    l.requestArrives = l ∨ l.requestArrives = ({ l with request := none, framer := l.framer.finish }).settleFraming := by
  unfold Lane.requestArrives
  split
  · exact .inr rfl
  · exact .inl rfl

theorem Lane.requestNears_cases (l : Lane) : l.requestNears = l ∨ ∃ n, l.requestNears = { l with request := some n } := by
  unfold Lane.requestNears
  split
  next n _ => exact .inr ⟨n, rfl⟩
  next => exact .inl rfl

section interval
variable {P : Lane → Prop} {env : LaneEnv} {d : Descriptor}

/-- What each cell, each request and the settling keep, the cells of an interval keep. -/
theorem Lane.takeCells_keeps (hcell : ∀ c l, P l → P (l.takeCell env d c))
    (hfinish : ∀ l, P l → P { l with framer := l.framer.finish })
    (hsettle : ∀ l, P l → P l.settleFraming) (hrequest : ∀ l r, P l → P { l with request := r })
    (cells : List RecordedCell) {l : Lane} (h : P l) : P (Lane.takeCells env d cells l) := by
  unfold Lane.takeCells
  induction cells generalizing l with
  | nil => exact h
  | cons c cs ih =>
    refine ih ?_
    change P (l.requestNears.takeCell env d c).requestArrives
    have hnears : P l.requestNears := by
      obtain heq | ⟨n, heq⟩ := l.requestNears_cases <;> rw [heq]
      · exact h
      · exact hrequest l _ h
    have htaken := hcell c _ hnears
    obtain heq | heq := (l.requestNears.takeCell env d c).requestArrives_cases <;> rw [heq]
    · exact htaken
    · exact hsettle _ (hrequest _ none (hfinish _ htaken))

/-- What the judgement leaves and what each cell, each request and the settling keep, the closing of an interval
keeps. -/
theorem Lane.closeInterval_keeps (hcell : ∀ c l, P l → P (l.takeCell env d c))
    (hfinish : ∀ l, P l → P { l with framer := l.framer.finish })
    (hsettle : ∀ l, P l → P l.settleFraming) (hrequest : ∀ l r, P l → P { l with request := r }) {l : Lane} {ticks : Nat}
    (hstart : ∀ finishing kraw ccur,
      (ccur = l.timing.ceff ∨ ccur = (l.separator.compute env.profile.encoding l.timing.ceff ticks).ccur) →
      P { l with
          interval := some 0, framer := (l.framer.judge env.profile finishing kraw l.counts).framer
          counts := (l.framer.judge env.profile finishing kraw l.counts).counts
          separator := { l.separator with ccur := ccur } }) :
    P (l.closeInterval env d ticks) := by
  unfold Lane.closeInterval Lane.deliver
  dsimp only
  refine hsettle _ ?_
  split
  · split
    · exact hstart _ _ _ (.inl rfl)
    · exact hstart _ _ _ (.inr rfl)
  · exact Lane.takeCells_keeps hcell hfinish hsettle hrequest _ (hstart _ _ _ (.inr rfl))

end interval

/-! ## Frames -/

/-- Counting an edge: the settle count, the revolutions, and what the start and the end of capture bring. -/
theorem Lane.countEdge_cases (d : Descriptor) (l : Lane) :
    l.countEdge d = l
      ∨ (l.state = .armed
        ∧ l.countEdge d = { l with timing := { l.timing with settleCount := l.timing.settleCount + 1 } })
      ∨ (l.state = .armed
        ∧ l.countEdge d =
            { l with
              timing := { l.timing with settleCount := l.timing.settleCount + 1 }
              state := .capturing, revolutions := 0, framer := l.framer.start, interval := some 0 })
      ∨ (l.state = .capturing ∧ l.countEdge d = { l with revolutions := l.revolutions + 1 })
      ∨ (l.state = .capturing ∧ l.countEdge d = ({ l with revolutions := l.revolutions + 1 }).endCapture .complete) := by
  unfold Lane.countEdge
  split
  next hs =>
    dsimp only
    split
    · exact .inr (.inr (.inl ⟨hs, rfl⟩))
    · exact .inr (.inl ⟨hs, rfl⟩)
  next hs =>
    dsimp only
    split
    · exact .inr (.inr (.inr (.inr ⟨hs, rfl⟩)))
    · exact .inr (.inr (.inr (.inl ⟨hs, rfl⟩)))
  next => exact .inl rfl

/-- The end of capture changes framer, interval, state and cause. -/
theorem Lane.endCapture_frame (l : Lane) (c : PassOutcome) :
    l.endCapture c =
      { l with
        framer := l.framer.finish, interval := (l.endCapture c).interval, state := (l.endCapture c).state
        cause := (l.recordCause c).cause } := by
  unfold Lane.endCapture
  conv_lhs => rw [Lane.requestFinish_frame]
  rfl

/-- The end of capture leads to FINISHING, or to DRAINING with no interval open (R66, R67). -/
theorem Lane.endCapture_state (l : Lane) (c : PassOutcome) :
    ((l.endCapture c).state = .finishing ∧ (l.endCapture c).interval = l.interval)
      ∨ ((l.endCapture c).state = .draining ∧ (l.endCapture c).interval = none) := by
  unfold Lane.endCapture Lane.requestFinish Lane.settleFraming
  split
  · exact .inr ⟨rfl, rfl⟩
  · exact .inl ⟨rfl, rfl⟩

/-- Step 6 of R35: Ccur at an edge taken in state `before`, for the lane that the steps before have left. -/
def Lane.anchoredCell (before : LaneState) (l : Lane) : Nat :=
  if before = .armed then (if l.state = .armed then l.separator.ccur else l.timing.ceff)
  else clampBand l.timing.ceff l.separator.tolerance l.separator.ccur

theorem Lane.anchorCell_eq (before : LaneState) (l : Lane) :
    l.anchorCell before = { l with separator := { l.separator with ccur := l.anchoredCell before } } := by
  unfold Lane.anchorCell Lane.anchoredCell
  split
  next hstate => rw [if_pos rfl, if_pos hstate]
  next hstate => rw [if_pos rfl, if_neg hstate]
  next hbefore _ => rw [if_neg hbefore]

/-- Steps 1 and 2 of R35 at a lane: period, history and cell clock, and the fault counted. -/
def Lane.edgeTimed (p : Profile) (d : Descriptor) (k : EdgeKind) (l : Lane) : Lane :=
  { l with
    timing := (l.timing.accept k).recompute p d.cellOverride
    counts :=
      { l.counts with
        indexFaults := if k = EdgeKind.fault then satInc 255 l.counts.indexFaults else l.counts.indexFaults } }

/-- Steps 1 to 5 of R35: the cell clock, the count, the schedule and the preset in force. -/
def Lane.edgeStaged (p : Profile) (presets : Vector Preset 16) (d : Descriptor) (k : EdgeKind) (l : Lane) : Lane :=
  let m := (l.edgeTimed p d k).countEdge d
  Lane.latchPreset presets d
    { m with schedule := m.schedule.stage (l.state == LaneState.capturing) d.preset.isNone }

/-- R35: an accepted edge is its five first steps and the anchoring of Ccur. -/
theorem Lane.acceptEdge_eq (p : Profile) (presets : Vector Preset 16) (d : Descriptor) (k : EdgeKind) (l : Lane) :
    l.acceptEdge p presets d k =
      { l.edgeStaged p presets d k with
        separator :=
          { (l.edgeStaged p presets d k).separator with ccur := (l.edgeStaged p presets d k).anchoredCell l.state } } :=
  Lane.anchorCell_eq _ _

/-- An accepted edge, apart from the separator: the cell clock, the count and the schedule (R35). -/
theorem Lane.acceptEdge_frame (p : Profile) (presets : Vector Preset 16) (d : Descriptor) (k : EdgeKind) (l : Lane) :
    ∃ x : Separator,
      l.acceptEdge p presets d k =
        { (l.edgeTimed p d k).countEdge d with
          schedule := ((l.edgeTimed p d k).countEdge d).schedule.stage (l.state == LaneState.capturing) d.preset.isNone
          separator := x } := by
  rw [Lane.acceptEdge_eq]
  exact ⟨_, rfl⟩

theorem Lane.countEdge_frame (d : Descriptor) (l : Lane) :
    (l.countEdge d).separator = l.separator ∧ (l.countEdge d).schedule = l.schedule
      ∧ (l.countEdge d).active = l.active ∧ (l.countEdge d).chain = l.chain ∧ (l.countEdge d).queue = l.queue
      ∧ (l.countEdge d).outcome = l.outcome ∧ (l.countEdge d).counts = l.counts
      ∧ (l.countEdge d).request = l.request ∧ (l.countEdge d).freeCount = l.freeCount := by
  obtain heq | ⟨-, heq⟩ | ⟨-, heq⟩ | ⟨-, heq⟩ | ⟨-, heq⟩ := Lane.countEdge_cases d l <;> rw [heq]
  case inr.inr.inr.inr =>
    rw [Lane.endCapture_frame]
    exact ⟨rfl, rfl, rfl, rfl, rfl, rfl, rfl, rfl, rfl⟩
  all_goals exact ⟨rfl, rfl, rfl, rfl, rfl, rfl, rfl, rfl, rfl⟩

/-- An index edge is a glitch that is counted, or is accepted. -/
theorem Lane.indexEdge_cases (p : Profile) (presets : Vector Preset 16) (d : Descriptor) (l : Lane) :
    l.indexEdge p presets d =
        { l with counts := { l.counts with indexGlitches := satInc 65535 l.counts.indexGlitches } }
      ∨ ∃ k, l.indexEdge p presets d = l.acceptEdge p presets d k := by
  by_cases h : l.timing.classify p.revPeriod = .glitch
  · refine .inl ?_
    unfold Lane.indexEdge
    rw [h]
  · exact .inr ⟨_, Lane.indexEdge_accepted h⟩

/-- The NO_INDEX expiry: nothing, straight to DRAINING from ARMED, or the end of capture. -/
theorem Lane.noIndex_cases (l : Lane) :
    l.noIndex = l ∨ (l.state = .armed ∧ l.noIndex = { l.recordCause .noIndex with state := .draining })
      ∨ (l.state = .capturing ∧ l.noIndex = l.endCapture .noIndex) := by
  unfold Lane.noIndex
  split
  next h => exact .inr (.inl ⟨h, rfl⟩)
  next h => exact .inr (.inr ⟨h, rfl⟩)
  next => exact .inl rfl

/-- An index edge leaves queue, descriptors, outcome and the request on its way. -/
theorem Lane.indexEdge_frame (p : Profile) (presets : Vector Preset 16) (d : Descriptor) (l : Lane) :
    let m := l.indexEdge p presets d
    m.active = l.active ∧ m.chain = l.chain ∧ m.queue = l.queue ∧ m.outcome = l.outcome ∧ m.request = l.request := by
  dsimp only
  obtain heq | ⟨k, heq⟩ := Lane.indexEdge_cases p presets d l <;> rw [heq]
  · exact ⟨rfl, rfl, rfl, rfl, rfl⟩
  · obtain ⟨x, heq⟩ := Lane.acceptEdge_frame p presets d k l
    rw [heq]
    obtain ⟨-, -, hactive, hchain, hqueue, houtcome, -, hrequest, -⟩ := Lane.countEdge_frame d (l.edgeTimed p d k)
    exact ⟨hactive, hchain, hqueue, houtcome, hrequest⟩

theorem Lane.noIndex_keeps (l : Lane) :
    l.noIndex.active = l.active ∧ l.noIndex.chain = l.chain ∧ l.noIndex.queue = l.queue
      ∧ l.noIndex.schedule = l.schedule := by
  obtain heq | ⟨-, heq⟩ | ⟨-, heq⟩ := l.noIndex_cases <;> rw [heq]
  · exact ⟨rfl, rfl, rfl, rfl⟩
  · exact ⟨rfl, rfl, rfl, rfl⟩
  · rw [Lane.endCapture_frame]
    exact ⟨rfl, rfl, rfl, rfl⟩

/-! ## Pairs that become attempts -/

/-- The attempt a kept pair completes as (R73). -/
def FieldPair.attempt (env : LaneEnv) (d : Descriptor) (x : FieldPair) : Attempt where
  lane := env.number
  key := ⟨⟨d.volume, x.id.cylinder, x.id.head⟩, x.id.sector⟩
  dataLength := x.id.dataLength
  deleted := x.deleted
  crcGood := x.crcGood
  bytes := x.bytes
  confidences := x.confidences

/-- Anchoring keeps the framer, and its queue is the old one or has one more attempt at its tail, whose ID fits the
descriptor and the geometry, in a queue that had room (R74, R76, R83). -/
theorem Lane.anchor_queue (env : LaneEnv) (d : Descriptor) (x : FieldPair) (l : Lane) :
    (l.anchor env d x).framer = l.framer
      ∧ ((l.anchor env d x).queue = l.queue
        ∨ (d.onTrack x.id = true ∧ env.inGeometry x.id = true ∧ l.queue.length < 6
          ∧ (l.anchor env d x).queue = l.queue ++ [x.attempt env d])) := by
  obtain ⟨hframe, -⟩ := Lane.anchor_frame env d x l
  refine ⟨by rw [hframe], ?_⟩
  have hcomplete (hon : d.onTrack x.id = true) (hin : env.inGeometry x.id = true) :
      (l.complete env d x).queue = l.queue
        ∨ (d.onTrack x.id = true ∧ env.inGeometry x.id = true ∧ l.queue.length < 6
          ∧ (l.complete env d x).queue = l.queue ++ [x.attempt env d]) := by
    unfold Lane.complete Lane.offer
    split
    next hroom => exact .inr ⟨hon, hin, hroom, rfl⟩
    next => exact .inl rfl
  unfold Lane.anchor
  split
  · split
    next =>
      unfold Lane.seekMismatch
      dsimp only
      split <;> exact .inl rfl
    next hon =>
      split
      next => exact .inl rfl
      next hin => exact hcomplete (by simpa using hon) (by simpa using hin)
  · split
    next h =>
      simp only [Bool.and_eq_true] at h
      exact hcomplete h.1.1 h.1.2
    next => exact .inl rfl

/-- A property `F` of framers that the framer keeps at every cell, judgement and request, and what it says of the pairs
reported. -/
structure FramerKeeps (F : Framer → Prop) (G : FieldPair → Prop) : Prop where
  start : ∀ f, F f → F f.start
  finish : ∀ f, F f → F f.finish
  stop : ∀ f, F f → F f.stop
  judge : ∀ p finishing kraw f n, F f → F (f.judge p finishing kraw n).framer
  takeCell : ∀ p c f n, F f → F (f.takeCell p c n).framer
  pair : ∀ p c f n x, F f → (f.takeCell p c n).pair = some x → G x

/-- The framer has property `F`, and every queued attempt has property `A`. -/
def Lane.Carries (F : Framer → Prop) (A : Attempt → Prop) (l : Lane) : Prop := F l.framer ∧ ∀ a ∈ l.queue, A a

section carries
variable {F : Framer → Prop} {G : FieldPair → Prop} {A : Attempt → Prop} {env : LaneEnv} {d : Descriptor} {l : Lane}

theorem Lane.Carries.settleFraming (h : l.Carries F A) : l.settleFraming.Carries F A := by
  rw [Lane.settleFraming_frame]
  exact h

theorem Lane.Carries.endCapture (hF : FramerKeeps F G) (h : l.Carries F A) (c : PassOutcome) :
    (l.endCapture c).Carries F A := by
  rw [Lane.endCapture_frame]
  exact ⟨hF.finish _ h.1, h.2⟩

theorem Lane.Carries.takeCell (hF : FramerKeeps F G)
    (hA : ∀ x, G x → d.onTrack x.id = true → env.inGeometry x.id = true → A (x.attempt env d)) (c : RecordedCell)
    (h : l.Carries F A) : (l.takeCell env d c).Carries F A := by
  have hframer := hF.takeCell env.profile c l.framer l.counts h.1
  unfold Lane.takeCell
  dsimp only
  split
  next x hx =>
    have hG := hF.pair env.profile c l.framer l.counts x h.1 hx
    unfold Lane.Carries
    generalize hm : ({ l with
      framer := (l.framer.takeCell env.profile c l.counts).framer
      counts := (l.framer.takeCell env.profile c l.counts).counts } : Lane) = m
    have hmf : F m.framer := by rw [← hm]; exact hframer
    have hmq : ∀ a ∈ m.queue, A a := by rw [← hm]; exact h.2
    obtain ⟨hsame, hqueue | ⟨hon, hin, -, hqueue⟩⟩ := Lane.anchor_queue env d x m
    · rw [hsame, hqueue]
      exact ⟨hmf, hmq⟩
    · rw [hsame, hqueue]
      exact ⟨hmf, List.forall_mem_append.2 ⟨hmq, by simpa using hA x hG hon hin⟩⟩
  next => exact ⟨hframer, h.2⟩

theorem Lane.Carries.closeInterval (hF : FramerKeeps F G)
    (hA : ∀ x, G x → d.onTrack x.id = true → env.inGeometry x.id = true → A (x.attempt env d)) (ticks : Nat)
    (h : l.Carries F A) : (l.closeInterval env d ticks).Carries F A :=
  Lane.closeInterval_keeps (P := Lane.Carries F A) (fun c _ h => h.takeCell hF hA c)
    (fun _ h => ⟨hF.finish _ h.1, h.2⟩) (fun _ h => h.settleFraming) (fun _ _ h => h)
    fun finishing kraw _ _ => ⟨hF.judge env.profile finishing kraw _ _ h.1, h.2⟩

theorem Lane.Carries.noIndex (hF : FramerKeeps F G) (h : l.Carries F A) : l.noIndex.Carries F A := by
  obtain heq | ⟨-, heq⟩ | ⟨-, heq⟩ := l.noIndex_cases <;> rw [heq]
  · exact h
  · exact h
  · exact h.endCapture hF _

theorem Lane.Carries.countEdge (hF : FramerKeeps F G) (d : Descriptor) (h : l.Carries F A) :
    (l.countEdge d).Carries F A := by
  obtain heq | ⟨-, heq⟩ | ⟨-, heq⟩ | ⟨-, heq⟩ | ⟨-, heq⟩ := Lane.countEdge_cases d l <;> rw [heq]
  · exact h
  · exact h
  · exact ⟨hF.start _ h.1, h.2⟩
  · exact h
  · exact Lane.Carries.endCapture (l := { l with revolutions := l.revolutions + 1 }) hF h _

theorem Lane.Carries.indexEdge (hF : FramerKeeps F G) (p : Profile) (presets : Vector Preset 16) (d : Descriptor)
    (h : l.Carries F A) : (l.indexEdge p presets d).Carries F A := by
  obtain heq | ⟨k, heq⟩ := Lane.indexEdge_cases p presets d l <;> rw [heq]
  · exact h
  · obtain ⟨x, heq⟩ := Lane.acceptEdge_frame p presets d k l
    rw [heq]
    exact Lane.Carries.countEdge (l := l.edgeTimed p d k) hF d h

/-- What the framer keeps and anchoring gives, every effect on a lane keeps. -/
theorem Lane.Carries.effect {s : State} {i : Fin 4} {x : Lane} (hF : FramerKeeps F G)
    (hA : ∀ d x, G x → d.onTrack x.id = true → (s.laneEnv i d).inGeometry x.id = true → A (x.attempt (s.laneEnv i d) d))
    (hx : s.LaneEffect i x) (h : (s.lanes[i]).Carries F A) : x.Carries F A := by
  cases hx with
  | schedule | chain | activate | elapse => exact h
  | interval d k ticks => exact h.closeInterval hF (hA d) ticks
  | noIndex => exact h.noIndex hF
  | edge d => exact h.indexEdge hF _ _ d

theorem Lane.Carries.abort (hF : FramerKeeps F G) (h : l.Carries F A) (discardQueue clearChain : Bool) :
    (l.abort discardQueue clearChain).Carries F A := by
  refine ⟨hF.stop _ h.1, fun a ha => ?_⟩
  cases discardQueue
  · exact h.2 a ha
  · cases ha

end carries

/-! ## The lanes of an effect -/

/-- What an effect does to the lanes: nothing, or one lane changes by an effect of its own, an abort, the loss of its
queue's head, a completion, a reset or a count. -/
inductive Lane.Change (s : State) (i : Fin 4) : Lane → Prop where
  | same : Change s i s.lanes[i]
  | effect {x : Lane} (hx : s.LaneEffect i x) : Change s i x
  | abort (discardQueue clearChain : Bool) (hstate : (s.lanes[i]).state ≠ .idle) :
      Change s i ((s.lanes[i]).abort discardQueue clearChain)
  | popped (a : Attempt) (rest : List Attempt) (hqueue : (s.lanes[i]).queue = a :: rest) :
      Change s i { s.lanes[i] with queue := rest }
  | counted (counts : Counts) : Change s i { s.lanes[i] with counts := counts }
  | completed (hdrained : s.drained i = true) (hchain : (s.lanes[i]).chain = none) :
      Change s i { (s.lanes[i]).completePass with chain := none }
  | promoted (hdrained : s.drained i = true) (d : Descriptor) (hchain : (s.lanes[i]).chain = some d) :
      Change s i
        (({ (s.lanes[i]).completePass with chain := none } : Lane).activate (s.profileOf d.volume) s.presets d)
  | reset : Change s i (s.lanes[i]).afterReset

theorem Lane.Change.setLane {s : State} {i : Fin 4} {x : Lane} (hx : Lane.Change s i x) (j : Fin 4) :
    Lane.Change s j (s.setLane i x).lanes[j] := by
  by_cases hj : j = i
  · subst hj
    rw [State.setLane_get]
    exact hx
  · rw [State.setLane_get_ne _ _ _ _ hj]
    exact .same

/-- An allocation leaves lanes, arbiter, engine, settings, profiles and presets. -/
theorem State.allocate_frame (s : State) (j : Nat) (r : Track) (i : Nat) (a : Attempt) :
    s.allocate j r i a =
      { s with
        tracks := (s.allocated j r i a).tracks, volumes := (s.allocated j r i a).volumes
        entries := (s.allocated j r i a).entries, slots := (s.allocated j r i a).slots
        freeEntries := s.freeEntries - 1, lowWarning := (s.allocate j r i a).lowWarning
        bay := (s.allocate j r i a).bay, station := (s.allocate j r i a).station } := by
  rw [State.allocate_eq]
  obtain heq | ⟨-, -, heq⟩ := (s.allocated j r i a).testLow_cases <;> rw [heq] <;> rfl

/-- The classification of a granted attempt leaves the lanes and the arbiter, and all settings, profiles and presets. -/
theorem State.receive_frame (s : State) (a : Attempt) :
    s.receive a =
      { s with
        tracks := (s.receive a).tracks, volumes := (s.receive a).volumes, entries := (s.receive a).entries
        slots := (s.receive a).slots, freeEntries := (s.receive a).freeEntries
        lowWarning := (s.receive a).lowWarning, engine := (s.receive a).engine, bay := (s.receive a).bay
        station := (s.receive a).station } := by
  obtain ⟨-, heq⟩ | ⟨-, ⟨i, e, -, hknown⟩ | ⟨-, heq⟩⟩ := State.receive_cases s a
  · rw [heq]
    rfl
  · obtain ⟨heq, -⟩ | ⟨heq, -⟩ | ⟨heq, -⟩ := hknown <;> rw [heq] <;> rfl
  · rw [heq]
    obtain heq | ⟨j, r, i, -, -, heq⟩ := State.accommodate_cases s a <;> rw [heq]
    · rfl
    · rw [State.allocate_frame]
      rfl

theorem State.advanceMerge_lanes (s : State) (h : Hand) (upTo : Nat) : (s.advanceMerge h upTo).lanes = s.lanes := by
  obtain ⟨heq, -⟩ := State.advanceMerge_frame s h upTo
  rw [heq]

theorem State.endMerge_frame (s : State) (h : Hand) :
    s.endMerge h =
      { s with
        entries := (s.endMerge h).entries, slots := (s.endMerge h).slots, engine := (s.endMerge h).engine } := by
  obtain ⟨heq, -⟩ | ⟨e, x, -, -, heq⟩ := s.endMerge_cases h
  · rw [heq]
  · rw [heq]
    rfl

/-- A change of status leaves every lane but for its counts. -/
theorem State.noteStatus_lanes (s : State) (k : SectorKey) (l : Fin 4) (old new : Status) (j : Fin 4) :
    ∃ counts, (s.noteStatus k l old new).lanes[j] = { s.lanes[j] with counts := counts } := by
  have hlane (counts : Counts) :
      ∃ n, (s.setLane l { s.lanes[l] with counts := counts }).lanes[j] = { s.lanes[j] with counts := n } := by
    by_cases hj : j = l
    · subst hj
      exact ⟨counts, State.setLane_get _ _ _⟩
    · exact ⟨_, State.setLane_get_ne _ _ _ _ hj⟩
  unfold State.noteStatus
  split
  next => exact ⟨_, rfl⟩
  next =>
    split
    next =>
      unfold State.noteSettled
      dsimp only
      split
      next r track _ =>
        rw [State.noteTrack_frame]
        exact hlane _
      next => exact hlane _
    next => exact ⟨_, rfl⟩
    next => exact ⟨_, rfl⟩

/-- The events of a completion touch the ports only. -/
theorem State.raiseCompletion_frame (s : State) (i : Fin 4) (cause : Option PassOutcome) :
    ∃ bay station, s.raiseCompletion i cause = { s with bay := bay, station := station } := by
  unfold State.raiseCompletion
  dsimp only
  split <;> exact ⟨_, _, rfl⟩

/-- What every effect does to lane `i`. -/
theorem State.Effect.laneChange {s t : State} (he : s.Effect t) (i : Fin 4) : Lane.Change s i t.lanes[i] := by
  cases he with
  | outside hst =>
    rw [hst]
    exact .same
  | settings | profile | preset | openVolume | closeVolume => exact .same
  | lane j hx => exact Lane.Change.setLane (.effect hx) i
  | abort j discardQueue clearChain hstate =>
    exact Lane.Change.setLane (.abort discardQueue clearChain hstate) i
  | release j e =>
    rw [State.releaseNow_frame]
    exact .same
  | reset =>
    have hreset : s.resetBlocks.lanes[i] = (s.lanes[i]).afterReset := by fin_cases i <;> rfl
    rw [hreset]
    exact .reset
  | complete j hdrained =>
    obtain ⟨bay, station, hraised⟩ := s.raiseCompletion_frame j (s.lanes[j]).cause
    unfold State.completePass
    dsimp only
    rw [hraised]
    split
    next d hchain =>
      rw [State.activate, State.setLane_setLane, State.setLane_get]
      exact Lane.Change.setLane (.promoted hdrained d hchain) i
    next hchain => exact Lane.Change.setLane (.completed hdrained hchain) i
  | grant =>
    obtain heq | ⟨l, arb, a, rest, -, -, hqueue, heq⟩ := s.grantOne_popped <;> rw [heq]
    · exact .same
    · rw [State.receive_frame]
      exact Lane.Change.setLane (.popped a rest hqueue) i
  | advance hand upTo =>
    rw [State.advanceMerge_lanes]
    exact .same
  | endMerge hand =>
    rw [State.endMerge_frame]
    exact .same
  | evaluation hand =>
    obtain ⟨heq, -⟩ | ⟨e, x, d, e', -, -, -, -, heq⟩ := s.completeEvaluation_cases hand <;> rw [heq]
    · exact .same
    · obtain ⟨counts, hcounts⟩ := State.noteStatus_lanes
        ((s.setEntry hand.entry e').setSlot hand.entry ⟨x.lists, d.witness, d.image⟩) e.key hand.attempt.lane e.status
        e'.status i
      exact Eq.mpr (congrArg (Lane.Change s i) hcounts) (.counted counts)

end Sys2Proof.Machine
end

section
/-! SUPPORT. Fields and cell clocks in range (R1, R31, R33, R38, R39, R44, R48, R52, R58, R86, R179): the clamps of the writes,
the cell clock of a lane under each effect, the rotation order, and the obligation they settle. -/

namespace Sys2Proof.Machine

/-! ## Writes -/

/-- A clamp without a lower bound. -/
theorem clampNat_le (hi v : Nat) : clampNat 0 hi v ≤ hi := (clampNat_range (Nat.zero_le hi) v).2

/-- R179: every settings byte is clamped as it is stored. -/
theorem Settings.InRange.write {t : Settings} (h : t.InRange) (offset : Nat) (b : Byte) : (t.write offset b).InRange := by
  obtain ⟨hburst, htarget, hbonus, hmargin, hdepth, hquorum, hfloor, hseek, hlow⟩ := h
  unfold Settings.write
  split
  case h_2 => exact ⟨clampNat_range (by omega) _, htarget, hbonus, hmargin, hdepth, hquorum, hfloor, hseek, hlow⟩
  case h_3 => exact ⟨hburst, clampNat_range (by omega) _, hbonus, hmargin, hdepth, hquorum, hfloor, hseek, hlow⟩
  case h_4 => exact ⟨hburst, htarget, clampNat_le _ _, hmargin, hdepth, hquorum, hfloor, hseek, hlow⟩
  case h_5 => exact ⟨hburst, htarget, hbonus, clampNat_le _ _, hdepth, hquorum, hfloor, hseek, hlow⟩
  case h_6 => exact ⟨hburst, htarget, hbonus, hmargin, clampNat_le _ _, hquorum, hfloor, hseek, hlow⟩
  case h_7 => exact ⟨hburst, htarget, hbonus, hmargin, hdepth, clampNat_range (by omega) _, hfloor, hseek, hlow⟩
  case h_8 => exact ⟨hburst, htarget, hbonus, hmargin, hdepth, hquorum, clampNat_le _ _, hseek, hlow⟩
  case h_9 => exact ⟨hburst, htarget, hbonus, hmargin, hdepth, hquorum, hfloor, clampNat_range (by omega) _, hlow⟩
  case h_10 | h_11 =>
    exact ⟨hburst, htarget, hbonus, hmargin, hdepth, hquorum, hfloor, hseek, clampNat_le _ _⟩
  all_goals exact ⟨hburst, htarget, hbonus, hmargin, hdepth, hquorum, hfloor, hseek, hlow⟩

/-- R2: every profile field is clamped as a whole as its bytes are stored. -/
theorem Profile.InRange.write {p : Profile} (h : p.InRange) (offset : Nat) (b : Byte) : (p.write offset b).InRange := by
  obtain ⟨hcell, hrev, hrepeat, hid, hcyl, hwidth, hhead, hsector, hsize, hlength, hgap, hmarks⟩ := h
  unfold Profile.write
  split
  case h_2 | h_3 =>
    exact ⟨clampNat_range (by omega) _, hrev, hrepeat, hid, hcyl, hwidth, hhead, hsector, hsize, hlength, hgap, hmarks⟩
  case h_4 | h_5 | h_6 =>
    exact ⟨hcell, clampNat_range (by omega) _, hrepeat, hid, hcyl, hwidth, hhead, hsector, hsize, hlength, hgap, hmarks⟩
  case h_10 =>
    exact ⟨hcell, hrev, clampNat_range (by omega) _, hid, hcyl, hwidth, hhead, hsector, hsize, hlength, hgap, hmarks⟩
  case h_14 =>
    exact ⟨hcell, hrev, hrepeat, clampNat_range (by omega) _, hcyl, hwidth, hhead, hsector, hsize, hlength, hgap, hmarks⟩
  case h_15 =>
    exact ⟨hcell, hrev, hrepeat, hid, clampNat_le _ _, hwidth, hhead, hsector, hsize, hlength, hgap,
      hmarks⟩
  case h_16 =>
    exact ⟨hcell, hrev, hrepeat, hid, hcyl, clampNat_range (by omega) _, hhead, hsector, hsize, hlength, hgap, hmarks⟩
  case h_17 =>
    exact ⟨hcell, hrev, hrepeat, hid, hcyl, hwidth, clampNat_le _ _, hsector, hsize, hlength, hgap,
      hmarks⟩
  case h_18 =>
    exact ⟨hcell, hrev, hrepeat, hid, hcyl, hwidth, hhead, clampNat_le _ _, hsize, hlength, hgap, hmarks⟩
  case h_19 =>
    refine ⟨hcell, hrev, hrepeat, hid, hcyl, hwidth, hhead, hsector, fun k hk => ?_, hlength, hgap, hmarks⟩
    have hk : (if b.toNat ≤ 5 then some b.toNat else none) = some k := hk
    split at hk <;> cases hk
    assumption
  case h_20 =>
    exact ⟨hcell, hrev, hrepeat, hid, hcyl, hwidth, hhead, hsector, hsize, clampNat_le _ _, hgap, hmarks⟩
  case h_21 =>
    exact ⟨hcell, hrev, hrepeat, hid, hcyl, hwidth, hhead, hsector, hsize, hlength, clampNat_range (by omega) _, hmarks⟩
  case h_24 =>
    exact ⟨hcell, hrev, hrepeat, hid, hcyl, hwidth, hhead, hsector, hsize, hlength, hgap, clampNat_le _ _⟩
  all_goals exact ⟨hcell, hrev, hrepeat, hid, hcyl, hwidth, hhead, hsector, hsize, hlength, hgap, hmarks⟩

/-- R49. -/
theorem Preset.InRange.write {x : Preset} (h : x.InRange) (offset : Nat) (b : Byte) : (x.write offset b).InRange := by
  obtain ⟨hgain, htol, hlow, hhigh⟩ := h
  unfold Preset.write
  split
  · exact ⟨clampNat_le _ _, htol, hlow, hhigh⟩
  · exact ⟨hgain, clampNat_le _ _, hlow, hhigh⟩
  · refine ⟨hgain, htol, ?_, ?_⟩ <;> dsimp only <;> (repeat' split) <;> omega
  · exact ⟨hgain, htol, hlow, hhigh⟩

/-- Both copies of a schedule are in range (R52). -/
def ScheduleState.InRange (x : ScheduleState) : Prop := x.active.InRange ∧ x.staged.InRange

/-- R53. -/
theorem ScheduleState.InRange.write {x : ScheduleState} (h : x.InRange) (offset : Nat) (b : Byte) :
    (x.write offset b).InRange := by
  obtain ⟨hactive, hcount, hframe⟩ := h
  unfold ScheduleState.write
  split
  · exact ⟨hactive, clampNat_range (by omega) _, hframe⟩
  · exact ⟨hactive, hcount, clampNat_range (by omega) _⟩
  · split
    · exact ⟨hactive, hcount, hframe⟩
    · exact ⟨hactive, hcount, hframe⟩

/-- R54, R56: staging adopts the staged copy or keeps both. -/
theorem ScheduleState.InRange.stage {x : ScheduleState} (h : x.InRange) (closes uses : Bool) :
    (x.stage closes uses).InRange := by
  obtain ⟨hactive, hstaged⟩ := h
  unfold ScheduleState.stage ScheduleState.advance
  split
  · exact ⟨hstaged, hstaged⟩
  · split
    · split <;> exact ⟨hactive, hstaged⟩
    · exact ⟨hactive, hstaged⟩

/-! ## The cell clock -/

/-- R31, R33: the effective cell period is an override in its range, or within a sixteenth of the nominal one. -/
theorem Timing.recompute_ceff {p : Profile} (hp : p.InRange) {override : Option Nat}
    (ho : ∀ c, override = some c → 640 ≤ c ∧ c ≤ 6400) (t : Timing) :
    600 ≤ (t.recompute p override).ceff ∧ (t.recompute p override).ceff ≤ 6800 := by
  obtain ⟨hcell, -⟩ := hp
  unfold Timing.recompute
  dsimp only
  cases override with
  | some c =>
    have := ho c rfl
    simp only [Option.getD_some]
    omega
  | none =>
    simp only [Option.getD_none]
    split
    · omega
    · have hlow : cautoLow p.cellPeriod ≤ cautoHigh p.cellPeriod := by unfold cautoLow cautoHigh; omega
      have hclamp := clampNat_range hlow (cautoOfPeriods p.cellPeriod p.revPeriod t.history)
      unfold cautoLow cautoHigh at *
      omega

/-- R44: the band around an effective period in range. -/
theorem clampBand_range {ceff tolerance : Nat} (hceff : 600 ≤ ceff ∧ ceff ≤ 6800) (htol : tolerance ≤ 3) (v : Int) :
    525 ≤ clampBand ceff tolerance v ∧ clampBand ceff tolerance v ≤ 7650 := by
  have hhalf : bandHalf ceff tolerance ≤ ceff / 8 := by
    have hle : ceff * (tolerance + 1) ≤ ceff * 4 := Nat.mul_le_mul_left ceff (by omega)
    unfold bandHalf
    omega
  have heq := clampBand_eq htol ceff v
  omega

/-- What a lane has latched is a preset's. -/
abbrev Separator.Latched (x : Separator) : Prop := x.gain ≤ 4 ∧ x.tolerance ≤ 3 ∧ -4 ≤ x.bias ∧ x.bias ≤ 4

theorem Lane.latchPreset_latched {presets : Vector Preset 16} (hpresets : ∀ n : Fin 16, (presets[n]).InRange)
    (d : Descriptor) (l : Lane) : (l.latchPreset presets d).separator.Latched :=
  hpresets (d.decidePreset l.schedule)

section clock
variable {l : Lane}

/-- Intervals are measured in CAPTURING and FINISHING only. -/
theorem Lane.ClockInRange.interval_eq_none (h : l.ClockInRange) (hc : l.state ≠ .capturing) (hf : l.state ≠ .finishing) :
    l.interval = none := by
  obtain ⟨-, -, -, hmeasured⟩ := h
  by_contra hne
  obtain ⟨hstate | hstate, -⟩ := hmeasured hne
  · exact hc hstate
  · exact hf hstate

/-- R23, R36: an activated lane's clock. -/
theorem Lane.activate_clockInRange {p : Profile} (hp : p.InRange) {presets : Vector Preset 16}
    (hpresets : ∀ n : Fin 16, (presets[n]).InRange) {d : Descriptor} (hd : d.InRange)
    (hchain : ∀ d', l.chain = some d' → d'.InRange) (hint : l.interval = none) :
    (l.activate p presets d).ClockInRange := by
  have ⟨_, _, hoverride⟩ := hd
  refine ⟨?_, Lane.latchPreset_latched hpresets d _, fun _ => Timing.recompute_ceff hp hoverride _,
    fun hne => absurd hint hne⟩
  rintro d' (hd' | hd')
  · cases hd'
    exact hd
  · exact hchain d' hd'

theorem Lane.ClockInRange.settleFraming (h : l.ClockInRange) : l.settleFraming.ClockInRange := by
  obtain ⟨hdesc, hlatched, hceff, hmeasured⟩ := h
  unfold Lane.settleFraming
  split
  · refine ⟨hdesc, hlatched, fun hne => hceff fun hidle => hne ?_, fun hne => absurd rfl hne⟩
    dsimp only
    rw [if_neg (by simp [hidle])]
    exact hidle
  · exact ⟨hdesc, hlatched, hceff, hmeasured⟩

/-- R66: the end of capture at a lane that measures intervals. -/
theorem Lane.ClockInRange.endCapture (h : l.ClockInRange) (hs : l.state ≠ .idle) (c : PassOutcome) :
    (l.endCapture c).ClockInRange := by
  obtain ⟨hdesc, hlatched, hceff, hmeasured⟩ := h
  rw [Lane.endCapture_frame]
  refine ⟨hdesc, hlatched, fun _ => hceff hs, fun hne => ?_⟩
  obtain ⟨hstate, hint⟩ | ⟨-, hint⟩ := l.endCapture_state c
  · refine ⟨.inr hstate, (hmeasured ?_).2⟩
    rw [← hint]
    exact hne
  · exact absurd hint hne

theorem Lane.ClockInRange.takeCell {env : LaneEnv} {d : Descriptor} (h : l.ClockInRange) (c : RecordedCell) :
    (l.takeCell env d c).ClockInRange := by
  unfold Lane.takeCell
  dsimp only
  split
  next x _ =>
    generalize hm : ({ l with
      framer := (l.framer.takeCell env.profile c l.counts).framer
      counts := (l.framer.takeCell env.profile c l.counts).counts } : Lane) = m
    have hclock : m.ClockInRange := by rw [← hm]; exact h
    obtain ⟨hdesc, hlatched, hceff, hmeasured⟩ := hclock
    obtain ⟨hframe, -, hstate⟩ := Lane.anchor_frame env d x m
    rw [hframe]
    refine ⟨hdesc, hlatched, fun hne => hceff ?_, fun hne => ⟨?_, (hmeasured hne).2⟩⟩
    · obtain heq | ⟨heq, -⟩ := hstate
      · exact heq ▸ hne
      · simp [heq]
    · obtain heq | ⟨-, heq⟩ := hstate
      · have := (hmeasured hne).1
        rwa [← heq] at this
      · exact .inr heq
  next => exact h

/-- R38, R39, R44, R45: the closing of an open interval leaves Ccur in its band. -/
theorem Lane.ClockInRange.closeInterval (h : l.ClockInRange) (hint : l.interval ≠ none) (env : LaneEnv) (d : Descriptor)
    (ticks : Nat) : (l.closeInterval env d ticks).ClockInRange := by
  refine Lane.closeInterval_keeps (P := Lane.ClockInRange) (fun c _ h => h.takeCell c) (fun _ h => h)
    (fun _ h => h.settleFraming) (fun _ _ h => h) fun finishing kraw ccur hccur => ?_
  obtain ⟨hdesc, hlatched, hceff, hmeasured⟩ := h
  obtain ⟨hstate, -⟩ := hmeasured hint
  have hperiod := hceff (by rcases hstate with hs | hs <;> simp [hs])
  refine ⟨hdesc, hlatched, hceff, fun _ => ⟨hstate, ?_⟩⟩
  obtain rfl | rfl := hccur
  · dsimp only
    omega
  · exact clampBand_range hperiod hlatched.2.1 _

/-- Counting an edge leaves the cell clock that the edge has set. -/
theorem Lane.countEdge_ceff (d : Descriptor) (l : Lane) : (l.countEdge d).timing.ceff = l.timing.ceff := by
  obtain heq | ⟨-, heq⟩ | ⟨-, heq⟩ | ⟨-, heq⟩ | ⟨-, heq⟩ := Lane.countEdge_cases d l <;> rw [heq]
  rw [Lane.endCapture_frame]

/-- After an edge is counted, intervals are still measured in CAPTURING and FINISHING only. -/
theorem Lane.countEdge_measures {d : Descriptor}
    (h : l.interval ≠ none → l.state = .capturing ∨ l.state = .finishing) (hne : (l.countEdge d).interval ≠ none) :
    (l.countEdge d).state = .capturing ∨ (l.countEdge d).state = .finishing := by
  obtain heq | ⟨hs, heq⟩ | ⟨hs, heq⟩ | ⟨hs, heq⟩ | ⟨hs, heq⟩ := Lane.countEdge_cases d l <;> rw [heq] at hne ⊢
  · exact h hne
  · exact h hne
  · exact .inl rfl
  · exact .inl hs
  · obtain ⟨hstate, -⟩ | ⟨-, hint⟩ := Lane.endCapture_state { l with revolutions := l.revolutions + 1 } .complete
    · exact .inr hstate
    · exact absurd hint hne

theorem LaneState.capturing_or_finishing_ne_armed {x : LaneState} (h : x = .capturing ∨ x = .finishing) : x ≠ .armed := by
  rcases h with rfl | rfl <;> decide

/-- R31, R33, R44: an accepted edge leaves the cell clock in range. -/
theorem Lane.ClockInRange.acceptEdge (h : l.ClockInRange) {p : Profile} (hp : p.InRange) {presets : Vector Preset 16}
    (hpresets : ∀ n : Fin 16, (presets[n]).InRange) {d : Descriptor} (hd : d.InRange) (k : EdgeKind) :
    (l.acceptEdge p presets d k).ClockInRange := by
  have ⟨hdesc, _, _, hmeasured⟩ := h
  have ⟨_, _, hoverride⟩ := hd
  have hceff : 600 ≤ (l.edgeStaged p presets d k).timing.ceff ∧ (l.edgeStaged p presets d k).timing.ceff ≤ 6800 := by
    change 600 ≤ ((l.edgeTimed p d k).countEdge d).timing.ceff ∧ ((l.edgeTimed p d k).countEdge d).timing.ceff ≤ 6800
    rw [Lane.countEdge_ceff]
    exact Timing.recompute_ceff hp hoverride _
  have hlatched : (l.edgeStaged p presets d k).separator.Latched := Lane.latchPreset_latched hpresets d _
  obtain ⟨-, -, hactive, hchain, -⟩ := Lane.countEdge_frame d (l.edgeTimed p d k)
  rw [Lane.acceptEdge_eq]
  refine ⟨fun d' hd' => hdesc d' (hd'.imp hactive.symm.trans hchain.symm.trans), hlatched, fun _ => hceff, fun hne => ?_⟩
  have hstate : (l.edgeStaged p presets d k).state = .capturing ∨ (l.edgeStaged p presets d k).state = .finishing :=
    Lane.countEdge_measures (l := l.edgeTimed p d k) (fun hint => (hmeasured hint).1) hne
  refine ⟨hstate, ?_⟩
  change 525 ≤ (l.edgeStaged p presets d k).anchoredCell l.state ∧ (l.edgeStaged p presets d k).anchoredCell l.state ≤ 7650
  unfold Lane.anchoredCell
  rw [if_neg (LaneState.capturing_or_finishing_ne_armed hstate)]
  split
  · omega
  · exact clampBand_range hceff hlatched.2.1 _

theorem Lane.ClockInRange.noIndex (h : l.ClockInRange) : l.noIndex.ClockInRange := by
  obtain heq | ⟨hs, heq⟩ | ⟨hs, heq⟩ := l.noIndex_cases <;> rw [heq]
  · exact h
  · have hint := h.interval_eq_none (by simp [hs]) (by simp [hs])
    obtain ⟨hdesc, hlatched, hceff, -⟩ := h
    exact ⟨hdesc, hlatched, fun _ => hceff (by simp [hs]), fun hne => absurd hint hne⟩
  · exact h.endCapture (by simp [hs]) _

end clock

/-! ## Every change of a lane -/

section change
variable {s : State} {i : Fin 4} {x : Lane}

theorem State.FieldsInRange.profileOf (h : s.FieldsInRange) (v : Fin 8) : (s.profileOf v).InRange :=
  h.2.1 _

theorem Preset.reset_inRange : Preset.reset.InRange := by
  unfold Preset.InRange
  decide

theorem Schedule.reset_inRange : Schedule.reset.InRange := by
  unfold Schedule.InRange
  decide

theorem Lane.ClockInRange.laneEffect (hx : s.LaneEffect i x) (hs : s.FieldsInRange)
    (h : (s.lanes[i]).ClockInRange) : x.ClockInRange := by
  have ⟨hdesc, hlatched, hceff, hmeasured⟩ := h
  obtain ⟨-, -, hpresets, -⟩ := id hs
  cases hx with
  | schedule offset b => exact h
  | chain d hd =>
    refine ⟨?_, hlatched, hceff, hmeasured⟩
    rintro d' (hd' | hd')
    · exact hdesc d' (.inl hd')
    · cases hd'
      exact hd.inRange
  | activate d hd hidle =>
    exact Lane.activate_clockInRange (hs.profileOf _) hpresets hd.inRange (fun d' hd' => hdesc d' (.inr hd'))
      (h.interval_eq_none (by rw [hidle]; decide) (by rw [hidle]; decide))
  | elapse n dt =>
    refine ⟨hdesc, hlatched, fun hne => ?_, fun hne => hmeasured fun hnone => hne ?_⟩
    · have := hceff hne
      unfold Lane.elapse
      dsimp only
      split <;> exact this
    · exact congrArg (Option.map _) hnone
  | interval d k ticks _ hk => exact h.closeInterval (by rw [hk]; nofun) _ _ _
  | noIndex => exact h.noIndex
  | edge d hd =>
    obtain heq | ⟨k, heq⟩ := Lane.indexEdge_cases (s.profileOf d.volume) s.presets d s.lanes[i] <;> rw [heq]
    · exact h
    · exact h.acceptEdge (hs.profileOf _) hpresets (hdesc d (.inl hd)) k

theorem State.draining_of_drained (h : s.drained i = true) : (s.lanes[i]).state = .draining := by
  simp only [State.drained, Bool.and_eq_true] at h
  simpa using h.1.1

theorem Lane.ClockInRange.change (hx : Lane.Change s i x) (hs : s.FieldsInRange) (h : (s.lanes[i]).ClockInRange) :
    x.ClockInRange := by
  have ⟨hdesc, hlatched, hceff, hmeasured⟩ := h
  obtain ⟨-, -, hpresets, -⟩ := id hs
  cases hx with
  | same => exact h
  | effect hx => exact h.laneEffect hx hs
  | abort discardQueue clearChain hstate =>
    refine ⟨?_, hlatched, fun _ => hceff hstate, fun hne => absurd rfl hne⟩
    rintro d (hd | hd)
    · exact hdesc d (.inl hd)
    · cases clearChain
      · exact hdesc d (.inr hd)
      · cases hd
  | popped => exact h
  | counted => exact h
  | completed hdrained =>
    have hstate := State.draining_of_drained hdrained
    have hint := h.interval_eq_none (by rw [hstate]; decide) (by rw [hstate]; decide)
    refine ⟨?_, hlatched, fun hne => absurd rfl hne, fun hne => absurd hint hne⟩
    rintro d (hd | hd) <;> cases hd
  | promoted hdrained d hchain =>
    have hstate := State.draining_of_drained hdrained
    exact Lane.activate_clockInRange (hs.profileOf _) hpresets (hdesc d (.inr hchain)) nofun
      (h.interval_eq_none (by rw [hstate]; decide) (by rw [hstate]; decide))
  | reset =>
    have hpreset : (0 ≤ 4 ∧ 0 ≤ 3) ∧ (-4 : Int) ≤ 0 ∧ (0 : Int) ≤ 4 := by decide
    obtain ⟨⟨hgain, htolerance⟩, hbias⟩ := hpreset
    refine ⟨?_, ⟨hgain, htolerance, hbias⟩, fun hne => absurd rfl hne, fun hne => absurd rfl hne⟩
    rintro d (hd | hd) <;> cases hd

theorem ScheduleState.InRange.activated {y : ScheduleState} (h : y.InRange) :
    ScheduleState.InRange { (if y.pending then y.adopt else y) with slotPosition := 0, revInSlot := 0 } := by
  obtain ⟨hactive, hstaged⟩ := h
  split
  · exact ⟨hstaged, hstaged⟩
  · exact ⟨hactive, hstaged⟩

/-- R52 to R56: every change of a lane keeps both copies of its schedule in range. -/
theorem ScheduleState.InRange.change (hx : Lane.Change s i x) (h : (s.lanes[i]).schedule.InRange) :
    x.schedule.InRange := by
  cases hx with
  | same | abort | popped | counted | completed => exact h
  | promoted => exact ScheduleState.InRange.activated (y := (s.lanes[i]).schedule) h
  | reset => exact ⟨Schedule.reset_inRange, Schedule.reset_inRange⟩
  | effect hx =>
    cases hx with
    | schedule offset b => exact h.write offset b
    | chain | elapse => exact h
    | activate => exact h.activated
    | interval d k ticks =>
      obtain ⟨c, heq, -⟩ := Lane.closeInterval_frame (s.laneEnv i d) d ticks s.lanes[i]
      rw [heq]
      exact h
    | noIndex =>
      obtain ⟨-, -, -, heq⟩ := (s.lanes[i]).noIndex_keeps
      rw [heq]
      exact h
    | edge d =>
      obtain heq | ⟨k, heq⟩ := Lane.indexEdge_cases (s.profileOf d.volume) s.presets d s.lanes[i] <;> rw [heq]
      · exact h
      · obtain ⟨y, heq⟩ := Lane.acceptEdge_frame (s.profileOf d.volume) s.presets d k s.lanes[i]
        obtain ⟨-, hsched, -⟩ := Lane.countEdge_frame d ((s.lanes[i]).edgeTimed (s.profileOf d.volume) d k)
        rw [heq]
        dsimp only
        rw [hsched]
        exact ScheduleState.InRange.stage h _ _

end change

/-! ## The rotation order -/

/-- R92: the owner that moves to the end leaves the order a rearrangement of the lanes. -/
theorem perm_moveToEnd {order : List (Fin 4)} (h : order.Perm [0, 1, 2, 3]) (l : Fin 4) :
    (order.filter (· != l) ++ [l]).Perm [0, 1, 2, 3] := by
  refine ((h.filter _).append_right [l]).trans ?_
  fin_cases l <;> decide

theorem Arbiter.endBurst_order {a : Arbiter} (h : a.order.Perm [0, 1, 2, 3]) : a.endBurst.order.Perm [0, 1, 2, 3] := by
  unfold Arbiter.endBurst
  dsimp only
  split
  · split
    · exact perm_moveToEnd h _
    · exact h
  · exact h

theorem Arbiter.afterGrant_order {a : Arbiter} (h : a.order.Perm [0, 1, 2, 3]) (left : Nat) :
    (a.afterGrant left).order.Perm [0, 1, 2, 3] := by
  unfold Arbiter.afterGrant
  dsimp only
  split
  · exact Arbiter.endBurst_order h
  · exact h

/-- R88, R91: the arbiter before a grant has the order as it stood. -/
theorem State.burst_order {s : State} {l : Fin 4} {arb : Arbiter} (h : s.burst = some (l, arb)) :
    arb.order = s.arbiter.order := by
  unfold State.burst at h
  split at h
  · cases h
    rfl
  · split at h <;> cases h
    rfl

/-- An evaluation's completion leaves settings, profiles, presets and the arbiter. -/
theorem State.completeEvaluation_frame (s : State) (h : Hand) :
    s.completeEvaluation h =
      { s with
        entries := (s.completeEvaluation h).entries, slots := (s.completeEvaluation h).slots
        tracks := (s.completeEvaluation h).tracks, volumes := (s.completeEvaluation h).volumes
        lanes := (s.completeEvaluation h).lanes, engine := (s.completeEvaluation h).engine
        bay := (s.completeEvaluation h).bay, station := (s.completeEvaluation h).station } := by
  obtain ⟨heq, -⟩ | ⟨e, x, d, e', -, -, -, -, heq⟩ := s.completeEvaluation_cases h
  · rw [heq]
  · rw [heq]
    unfold State.noteStatus
    split
    · rfl
    · split
      · unfold State.noteSettled
        dsimp only
        split
        · rw [State.noteTrack_frame]
          rfl
        · rfl
      · rfl
      · rfl

theorem State.OrderComplete.effect {s t : State} (he : s.Effect t) (h : s.OrderComplete) : t.OrderComplete := by
  cases he with
  | outside hst =>
    rw [hst]
    exact h
  | lane | settings | profile | preset | openVolume | closeVolume => exact h
  | abort i discardQueue clearChain =>
    unfold State.OrderComplete State.abortLane
    dsimp only
    split
    · exact Arbiter.endBurst_order h
    · exact h
  | release i e =>
    rw [State.releaseNow_frame]
    exact h
  | reset => exact List.Perm.refl _
  | complete i =>
    rw [State.completePass_frame]
    exact h
  | grant =>
    obtain heq | ⟨l, arb, a, rest, -, hburst, -, heq⟩ := s.grantOne_popped <;> rw [heq]
    · exact h
    · rw [State.receive_frame]
      refine Arbiter.afterGrant_order ?_ rest.length
      rw [State.burst_order hburst]
      exact h
  | advance hand upTo =>
    obtain ⟨heq, -⟩ := State.advanceMerge_frame s hand upTo
    rw [heq]
    exact h
  | endMerge hand =>
    rw [State.endMerge_frame]
    exact h
  | evaluation hand =>
    rw [State.completeEvaluation_frame]
    exact h

/-! ## The stored fields -/

/-- What of the stored fields is not the lanes'. -/
def State.StoredInRange (s : State) : Prop :=
  s.settings.InRange ∧ (∀ n : Fin 8, (s.profiles[n]).InRange) ∧ ∀ n : Fin 16, (s.presets[n]).InRange

/-- A vector's property is kept by replacing one element by one that has it. -/
theorem Vector.forall_set {α : Type} {n : Nat} {P : α → Prop} {v : Vector α n} (h : ∀ k : Fin n, P v[k]) (i : Fin n)
    {x : α} (hx : P x) (k : Fin n) : P (v.set i x)[k] := by
  by_cases hk : i = k
  · subst hk
    simpa using hx
  · have hne : (i : Nat) ≠ k := fun he => hk (Fin.ext he)
    have hget := Vector.getElem_set_ne (xs := v) (x := x) i.isLt k.isLt hne
    have hold := h k
    simp only [Fin.getElem_fin] at hold ⊢
    rwa [hget]

theorem State.reset_storedInRange : State.reset.StoredInRange := by
  refine ⟨by unfold Settings.InRange; decide, fun n => ?_, fun n => ?_⟩
  · rw [show State.reset.profiles[n] = Profile.reset by simp [State.reset]]
    exact ⟨by decide, by decide, by decide, by decide, by decide, by decide, by decide, by decide, by rintro _ ⟨⟩; decide,
      by decide, by decide, by decide⟩
  · rw [show State.reset.presets[n] = Preset.reset by simp [State.reset]]
    exact Preset.reset_inRange

theorem State.StoredInRange.effect {s t : State} (he : s.Effect t) (h : s.StoredInRange) : t.StoredInRange := by
  have ⟨hsettings, hprofiles, hpresets⟩ := h
  cases he with
  | outside hst =>
    rw [hst]
    exact h
  | lane | openVolume | closeVolume | abort => exact h
  | settings offset b => exact ⟨hsettings.write offset b, hprofiles, hpresets⟩
  | profile n offset b => exact ⟨hsettings, Vector.forall_set hprofiles n ((hprofiles n).write offset b), hpresets⟩
  | preset n offset b => exact ⟨hsettings, hprofiles, Vector.forall_set hpresets n ((hpresets n).write offset b)⟩
  | release i e =>
    rw [State.releaseNow_frame]
    exact h
  | reset => exact State.reset_storedInRange
  | complete i =>
    rw [State.completePass_frame]
    exact h
  | grant =>
    obtain heq | ⟨l, arb, a, rest, -, -, -, heq⟩ := s.grantOne_popped <;> rw [heq]
    · exact h
    · rw [State.receive_frame]
      exact h
  | advance hand upTo =>
    obtain ⟨heq, -⟩ := State.advanceMerge_frame s hand upTo
    rw [heq]
    exact h
  | endMerge hand =>
    rw [State.endMerge_frame]
    exact h
  | evaluation hand =>
    rw [State.completeEvaluation_frame]
    exact h

/-- Every effect keeps the fields and the cell clocks in range. -/
theorem State.FieldsInRange.effect {s t : State} (he : s.Effect t) (h : s.FieldsInRange) (hc : s.ClocksInRange) :
    t.FieldsInRange ∧ t.ClocksInRange := by
  have ⟨hsettings, hprofiles, hpresets, hlanes⟩ := h
  obtain ⟨hsettings', hprofiles', hpresets'⟩ := State.StoredInRange.effect he ⟨hsettings, hprofiles, hpresets⟩
  exact ⟨⟨hsettings', hprofiles', hpresets', fun i => ScheduleState.InRange.change (he.laneChange i) (hlanes i)⟩,
    fun i => (hc i).change (he.laneChange i) h⟩

/-- Settles O53: every effect keeps the stored fields by the clamps of the writes, the lanes' clocks change by change,
and the order by the owner's move to its end. -/
theorem fieldsStayInRange : Obligations.FieldsStayInRange := by
  intro s t hfields hclocks horder hstep
  obtain ⟨⟨hfields', hclocks'⟩, horder'⟩ :=
    step_keeps (P := fun s => (s.FieldsInRange ∧ s.ClocksInRange) ∧ s.OrderComplete) (fun _ _ h => h)
      (fun _ _ he h => ⟨h.1.1.effect he h.1.2, h.2.effect he⟩) hstep ⟨⟨hfields, hclocks⟩, horder⟩
  exact ⟨hfields', hclocks', horder'⟩

end Sys2Proof.Machine
end

section
/-! SUPPORT. Evidence (R14, R47, R76, R123, R125): every way the framer moves, what its fields and the queued attempts carry,
the attempt in hand, the merge of ranked lists, and the obligation they settle. -/

namespace Sys2Proof.Machine

/-! ## The framer's moves -/

/-- The framer's mode, the ID it holds, and the field in progress. -/
structure Framer.Shape (f : Framer) (mode : FramerMode) (held : Option HeldId) (bytes : List Byte)
    (confidences : List Nat) : Prop where
  mode_eq : f.mode = mode
  held_eq : f.heldId = held
  bytes_eq : f.bytes = bytes
  confidences_eq : f.confidences = confidences

/-- What a cell, a judgement or a request does to the framer's mode, ID and field in progress, and the pair it reports
(R10 to R19). -/
inductive Framer.Move (f : Framer) : Framer → Option FieldPair → Prop where
  | stays {g : Framer} (hfrom : g.markFromGap = f.markFromGap) (h : g.Shape f.mode f.heldId f.bytes f.confidences) :
      Move f g none
  | leaves {g : Framer} {m : FramerMode} (hm : m = .hunt ∨ m = .stopped) (h : g.Shape m none [] []) : Move f g none
  | mark {g : Framer} (hm : f.mode = .hunt ∨ f.mode = .gap) (hfrom : g.markFromGap = (f.mode == .gap))
      (h : g.Shape .mark f.heldId [] []) : Move f g none
  | toGap {g : Framer} (hm : f.mode = .mark) (hfrom : f.markFromGap = true) (h : g.Shape .gap f.heldId [] []) :
      Move f g none
  | idField {g : Framer} (h : g.Shape .id none [] []) : Move f g none
  | dataField {g : Framer} (hm : f.mode = .mark) (hfrom : f.markFromGap = true) (h : g.Shape .data f.heldId [] []) :
      Move f g none
  | byte {g : Framer} (e : Encoding) (cells : List RecordedCell)
      (hm : f.mode = .id ∨ (f.mode = .data ∧ ∃ x, f.heldId = some x ∧ f.bytes.length + 1 < x.dataLength + 2))
      (h : g.Shape f.mode f.heldId ((decodeByte e cells).value :: f.bytes)
        ((decodeByte e cells).confidence :: f.confidences)) :
      Move f g none
  | idHeld {g : Framer} (e : Encoding) (cells : List RecordedCell) (x : HeldId) (n : Nat)
      (hx : x.confidences = (((decodeByte e cells).confidence :: f.confidences).reverse).take n)
      (h : g.Shape .gap (some x) [] []) : Move f g none
  | pair {g : Framer} {m : FramerMode} (e : Encoding) (cells : List RecordedCell) (x : FieldPair) (hmode : f.mode = .data)
      (hid : f.heldId = some x.id)
      (hlength : x.id.dataLength + 2 ≤ f.bytes.length + 1)
      (hbytes : x.bytes = ((decodeByte e cells).value :: f.bytes).reverse)
      (hconf : x.confidences = ((decodeByte e cells).confidence :: f.confidences).reverse)
      (hm : m = .hunt ∨ m = .stopped) (h : g.Shape m none [] []) : Move f g (some x)

namespace Framer.Move
variable {f : Framer}

theorem hunt : f.Move f.enterHunt none := .leaves (.inl rfl) ⟨rfl, rfl, rfl, rfl⟩

theorem start : f.Move f.start none := .leaves (.inl rfl) ⟨rfl, rfl, rfl, rfl⟩

theorem stop : f.Move f.stop none := .leaves (.inr rfl) ⟨rfl, rfl, rfl, rfl⟩

theorem finish : f.Move f.finish none := by
  unfold Framer.finish
  split
  case h_2 | h_3 => exact stop
  all_goals exact .stays rfl ⟨rfl, rfl, rfl, rfl⟩

/-- R18: the judgement leaves the field in progress, or ends it. -/
theorem judge (p : Profile) (finishing : Bool) (kraw : Int) (n : Counts) :
    f.Move (f.judge p finishing kraw n).framer none := by
  unfold Framer.judge
  split
  · split
    · exact .stays rfl ⟨rfl, rfl, rfl, rfl⟩
    · dsimp only
      generalize (if decide ((2 * p.encoding.maxCells : Nat) < kraw) = true then f.runViolations
        else f.runViolations + 1) = violations
      split
      · cases finishing
        · exact .leaves (.inl rfl) ⟨rfl, rfl, rfl, rfl⟩
        · exact .leaves (.inr rfl) ⟨rfl, rfl, rfl, rfl⟩
      · exact .stays rfl ⟨rfl, rfl, rfl, rfl⟩
  · exact .stays rfl ⟨rfl, rfl, rfl, rfl⟩

/-- R11, R12: the mark search stays, or enters MARK. -/
theorem search {g : Framer} (hm : f.mode = .hunt ∨ f.mode = .gap) (hfrom : g.markFromGap = f.markFromGap)
    (hg : g.Shape f.mode f.heldId f.bytes f.confidences) (p : Profile) (c : RecordedCell) :
    f.Move (g.hunt p c) none := by
  obtain ⟨hmode, hheld, hbytes, hconf⟩ := hg
  have hstays (x : Framer) (hx : x.markFromGap = g.markFromGap) (h : x.Shape g.mode g.heldId g.bytes g.confidences) :
      f.Move x none := .stays (hx.trans hfrom)
    ⟨h.mode_eq.trans hmode, h.held_eq.trans hheld, h.bytes_eq.trans hbytes, h.confidences_eq.trans hconf⟩
  have hsame := hstays g rfl ⟨rfl, rfl, rfl, rfl⟩
  have hmark (x : Framer) (hx : x.mode = g.mode) (hxh : x.heldId = g.heldId) (cells : List RecordedCell) :
      f.Move (x.enterMark cells) none :=
    .mark hm (by rw [← hmode, ← hx]; rfl) ⟨rfl, hxh.trans hheld, rfl, rfl⟩
  have hcount : f.Move (g.countMatch p) none := by
    unfold Framer.countMatch
    dsimp only
    split
    · exact hmark { g with matchCount := g.matchCount + 1, sinceMatch := 0 } rfl rfl []
    · exact hstays _ rfl ⟨rfl, rfl, rfl, rfl⟩
  unfold Framer.hunt
  split
  · split
    · exact hstays _ rfl ⟨rfl, rfl, rfl, rfl⟩
    · split
      · exact hmark _ rfl rfl _
      · exact hstays _ rfl ⟨rfl, rfl, rfl, rfl⟩
  · split
    · split
      · exact hcount
      · exact hsame
    · split
      · exact hstays _ rfl ⟨rfl, rfl, rfl, rfl⟩
      · split
        · exact hcount
        · exact hstays _ rfl ⟨rfl, rfl, rfl, rfl⟩

/-- R13: the field mark byte begins a field or is a stray mark. -/
theorem markByte (g : Framer) (hm : f.mode = .mark) (hfrom : g.markFromGap = f.markFromGap) (hheld : g.heldId = f.heldId)
    (p : Profile) (b : Byte) (n : Counts) : f.Move (g.markByte p b n).framer (g.markByte p b n).pair := by
  unfold Framer.markByte
  split
  · exact .idField ⟨rfl, rfl, rfl, rfl⟩
  · split
    next hdata =>
      simp only [Bool.and_eq_true] at hdata
      exact .dataField hm (hfrom ▸ hdata.1) ⟨rfl, hheld, rfl, rfl⟩
    next =>
      unfold Framer.strayMark
      dsimp only
      split
      · exact .leaves (.inr rfl) ⟨rfl, rfl, rfl, rfl⟩
      · split
        next hgap =>
          simp only [Bool.and_eq_true] at hgap
          exact .toGap hm (hfrom ▸ hgap.1) ⟨rfl, hheld, rfl, rfl⟩
        next => exact .leaves (.inl rfl) ⟨rfl, rfl, rfl, rfl⟩

/-- R14, R17: a byte of a field joins it, or ends it with the ID or the pair. -/
theorem fieldByte (g : Framer) (hg : g.Shape f.mode f.heldId f.bytes f.confidences) (p : Profile) (e : Encoding)
    (cells : List RecordedCell) (n : Counts) :
    (f.mode = .id →
        f.Move (g.idFieldByte p (decodeByte e cells) n).framer (g.idFieldByte p (decodeByte e cells) n).pair)
      ∧ (f.mode = .data →
        f.Move (g.dataFieldByte p (decodeByte e cells) n).framer (g.dataFieldByte p (decodeByte e cells) n).pair) := by
  obtain ⟨hmode, hheld, hbytes, hconf⟩ := hg
  have hjoined (hm : f.mode = .id ∨ (f.mode = .data ∧ ∃ x, f.heldId = some x ∧ f.bytes.length + 1 < x.dataLength + 2)) :
      f.Move { g with
          cells := [], bytes := (decodeByte e cells).value :: g.bytes
          confidences := (decodeByte e cells).confidence :: g.confidences } none :=
    .byte e cells hm ⟨hmode, hheld, congrArg _ hbytes, congrArg _ hconf⟩
  constructor
  · intro hid
    unfold Framer.idFieldByte
    dsimp only
    split
    · exact hjoined (.inl hid)
    · dsimp only
      split
      · exact .leaves (.inr rfl) ⟨rfl, rfl, rfl, rfl⟩
      · refine .idHeld e cells _ p.idLength ?_ ⟨rfl, rfl, rfl, rfl⟩
        rw [← hconf]
        rfl
  · intro hdata
    unfold Framer.dataFieldByte
    split
    · dsimp only
      split
      · exact .leaves (.inr rfl) ⟨rfl, rfl, rfl, rfl⟩
      · exact .leaves (.inl rfl) ⟨rfl, rfl, rfl, rfl⟩
    next held hsome =>
      dsimp only
      split
      next hshort => exact hjoined (.inr ⟨hdata, held, hheld ▸ hsome, hbytes ▸ hshort⟩)
      next hlong =>
        have hlength : held.dataLength + 2 ≤ f.bytes.length + 1 := by
          rw [← hbytes]
          simpa using hlong
        dsimp only
        split
        · exact .pair e cells _ hdata (hheld ▸ hsome) hlength (hbytes ▸ rfl) (hconf ▸ rfl) (.inr rfl) ⟨rfl, rfl, rfl, rfl⟩
        · exact .pair e cells _ hdata (hheld ▸ hsome) hlength (hbytes ▸ rfl) (hconf ▸ rfl) (.inl rfl) ⟨rfl, rfl, rfl, rfl⟩

/-- R13, R14, R17: a cell of a field stays in its byte, or completes it. -/
theorem fieldCell (g : Framer) (hin : f.mode = .mark ∨ f.mode = .id ∨ f.mode = .data)
    (hfrom : g.markFromGap = f.markFromGap) (hg : g.Shape f.mode f.heldId f.bytes f.confidences) (p : Profile)
    (c : RecordedCell) (n : Counts) : f.Move (g.fieldCell p c n).framer (g.fieldCell p c n).pair := by
  unfold Framer.fieldCell
  dsimp only
  split
  · exact .stays hfrom ⟨hg.mode_eq, hg.held_eq, hg.bytes_eq, hg.confidences_eq⟩
  · unfold Framer.byteDone
    dsimp only
    rw [hg.mode_eq]
    obtain h | h | h := hin <;> rw [h]
    · exact markByte g h hfrom hg.held_eq p _ _
    · exact (fieldByte g hg p _ _ _).1 h
    · exact (fieldByte g hg p _ _ _).2 h

/-- Every cell the framer takes is one of its moves. -/
theorem takeCell (p : Profile) (c : RecordedCell) (f : Framer) (n : Counts) :
    f.Move (f.takeCell p c n).framer (f.takeCell p c n).pair := by
  unfold Framer.takeCell
  split
  next => exact .stays rfl ⟨rfl, rfl, rfl, rfl⟩
  next h => exact search (g := f.push c.one) (.inl h) rfl ⟨rfl, rfl, rfl, rfl⟩ p c
  next h =>
    dsimp only
    split
    · exact .leaves (.inl rfl) ⟨rfl, rfl, rfl, rfl⟩
    · exact search (g := { f.push c.one with gapCount := f.gapCount + 1 }) (.inr h) rfl ⟨rfl, rfl, rfl, rfl⟩ p c
  next h =>
    exact fieldCell { f.push c.one with gapCount := if f.markFromGap then f.gapCount + 1 else f.gapCount } (.inl h) rfl
      ⟨rfl, rfl, rfl, rfl⟩ p c n
  next h => exact fieldCell (f.push c.one) (.inr (.inl h)) rfl ⟨rfl, rfl, rfl, rfl⟩ p c n
  next h => exact fieldCell (f.push c.one) (.inr (.inr h)) rfl ⟨rfl, rfl, rfl, rfl⟩ p c n

end Framer.Move

/-- What every move of the framer keeps, and gives of the pair it reports, the framer keeps. -/
theorem FramerKeeps.of_moves {F : Framer → Prop} {G : FieldPair → Prop}
    (h : ∀ f g x, F f → f.Move g x → F g ∧ ∀ y, x = some y → G y) : FramerKeeps F G where
  start _ hf := (h _ _ _ hf .start).1
  finish _ hf := (h _ _ _ hf .finish).1
  stop _ hf := (h _ _ _ hf .stop).1
  judge p finishing kraw _ n hf := (h _ _ _ hf (.judge p finishing kraw n)).1
  takeCell p c f n hf := (h _ _ _ hf (.takeCell p c f n)).1
  pair p c f n x hf hx := (h _ _ _ hf (.takeCell p c f n)).2 x hx

/-! ## The attempts of the lanes and in hand -/

/-- The engine after a grant's classification: as it was, or with the attempt in hand and the settings latched (R118,
R119). -/
theorem State.receive_engine (s : State) (a : Attempt) :
    (s.receive a).engine = s.engine
      ∨ ∃ i, (s.receive a).engine.hand = some ⟨a, i⟩ ∧ (s.receive a).engine.bonus = s.settings.crcBonus := by
  obtain ⟨-, heq⟩ | ⟨-, ⟨i, e, -, hknown⟩ | ⟨-, heq⟩⟩ := State.receive_cases s a
  · rw [heq]
    exact .inl rfl
  · obtain ⟨heq, -⟩ | ⟨heq, -⟩ | ⟨heq, -⟩ := hknown <;> rw [heq]
    · exact .inl rfl
    · exact .inl rfl
    · exact .inr ⟨i, rfl, rfl⟩
  · rw [heq]
    obtain heq | ⟨j, r, i, -, -, heq⟩ := State.accommodate_cases s a <;> rw [heq]
    · exact .inl rfl
    · refine .inr ⟨i, rfl, ?_⟩
      rw [State.allocate_frame]
      rfl

/-- What every effect does to the attempt in hand and the latched bonus: they stand, the hand is emptied, or the head of a
queue is taken. -/
theorem State.Effect.handChange {s t : State} (he : s.Effect t) :
    ((t.engine.hand = s.engine.hand ∨ t.engine.hand = none)
        ∧ (t.engine.bonus = s.engine.bonus ∨ t.engine.bonus = Engine.reset.bonus))
      ∨ ∃ (l : Fin 4) (a : Attempt) (rest : List Attempt) (i : Nat), (s.lanes[l]).queue = a :: rest
          ∧ t.engine.hand = some ⟨a, i⟩ ∧ t.engine.bonus = s.settings.crcBonus := by
  cases he with
  | outside hst =>
    rw [hst]
    exact .inl ⟨.inl rfl, .inl rfl⟩
  | lane | settings | profile | preset | openVolume | closeVolume | abort => exact .inl ⟨.inl rfl, .inl rfl⟩
  | release i e =>
    rw [State.releaseNow_frame]
    exact .inl ⟨.inl rfl, .inl rfl⟩
  | reset => exact .inl ⟨.inr rfl, .inr rfl⟩
  | complete i =>
    rw [State.completePass_frame]
    exact .inl ⟨.inl rfl, .inl rfl⟩
  | grant =>
    obtain heq | ⟨l, arb, a, rest, -, -, hqueue, heq⟩ := s.grantOne_popped <;> rw [heq]
    · exact .inl ⟨.inl rfl, .inl rfl⟩
    · obtain hsame | ⟨i, hhand, hbonus⟩ := State.receive_engine (s.popped l arb rest) a
      · rw [hsame]
        exact .inl ⟨.inl rfl, .inl rfl⟩
      · exact .inr ⟨l, a, rest, i, hqueue, hhand, hbonus⟩
  | advance hand upTo =>
    obtain ⟨heq, -⟩ := State.advanceMerge_frame s hand upTo
    rw [heq]
    exact .inl ⟨.inl rfl, .inl rfl⟩
  | endMerge hand =>
    obtain ⟨heq, -⟩ | ⟨e, x, -, -, heq⟩ := s.endMerge_cases hand <;> rw [heq]
    · exact .inl ⟨.inl rfl, .inl rfl⟩
    · exact .inl ⟨.inl rfl, .inl rfl⟩
  | evaluation hand =>
    obtain ⟨heq, -⟩ | ⟨e, x, d, e', -, -, -, -, heq⟩ := s.completeEvaluation_cases hand <;> rw [heq]
    · exact .inl ⟨.inl rfl, .inl rfl⟩
    · exact .inl ⟨.inr rfl, .inl rfl⟩

/-- Every framer has property `F`, and every attempt, queued or in hand, has property `A`. -/
def State.Carries (F : Framer → Prop) (A : Attempt → Prop) (s : State) : Prop :=
  (∀ i : Fin 4, (s.lanes[i]).Carries F A) ∧ ∀ h, s.engine.hand = some h → A h.attempt

/-- What the framer keeps and anchoring gives, every effect keeps. -/
theorem State.Carries.effect {F : Framer → Prop} {G : FieldPair → Prop} {A : Attempt → Prop} {s t : State}
    (he : s.Effect t) (hF : FramerKeeps F G) (hreset : F Framer.reset)
    (hA : ∀ env d x, G x → A (FieldPair.attempt env d x)) (h : s.Carries F A) : t.Carries F A := by
  obtain ⟨hlanes, hhand⟩ := h
  refine ⟨fun i => ?_, fun x hx => ?_⟩
  · have hlane := hlanes i
    generalize t.lanes[i] = x, he.laneChange i = hc
    cases hc with
    | same | counted | completed | promoted => exact hlane
    | effect hx => exact hlane.effect hF (fun d x hx _ _ => hA _ d x hx) hx
    | abort discardQueue clearChain => exact hlane.abort hF discardQueue clearChain
    | popped a rest hqueue => exact ⟨hlane.1, fun b hb => hlane.2 b (hqueue ▸ .tail a hb)⟩
    | reset => exact ⟨hreset, nofun⟩
  · obtain ⟨hsame | hnone, -⟩ | ⟨l, a, rest, i, hqueue, hnew, -⟩ := he.handChange
    · exact hhand x (hsame ▸ hx)
    · rw [hnone] at hx
      cases hx
    · rw [hnew] at hx
      cases hx
      exact (hlanes l).2 a (hqueue ▸ .head rest)

/-! ## Confidences -/

/-- Byte confidences lie in 0 to 15, those of a field in progress and those of the ID held (R14, R47). -/
def Framer.ConfidencesBounded (f : Framer) : Prop :=
  (∀ c ∈ f.confidences, c ≤ 15) ∧ ∀ h, f.heldId = some h → ∀ c ∈ h.confidences, c ≤ 15

theorem Framer.confidencesBounded_keeps :
    FramerKeeps Framer.ConfidencesBounded fun x => ∀ c ∈ x.confidences, c ≤ 15 := by
  refine .of_moves fun f g x hf hmove => ?_
  obtain ⟨hconf, hheld⟩ := hf
  have hjoined (e : Encoding) (cells : List RecordedCell) :
      ∀ c ∈ (decodeByte e cells).confidence :: f.confidences, c ≤ 15 :=
    List.forall_mem_cons.2 ⟨decodeByte_confidence_le e cells, hconf⟩
  have hshape {m : FramerMode} {held : Option HeldId} {bytes : List Byte} {confs : List Nat}
      (h : g.Shape m held bytes confs) (hc : ∀ c ∈ confs, c ≤ 15)
      (hh : ∀ y, held = some y → ∀ c ∈ y.confidences, c ≤ 15) : g.ConfidencesBounded := by
    obtain ⟨-, hheld, -, hconf⟩ := h
    exact ⟨hconf ▸ hc, hheld ▸ hh⟩
  cases hmove with
  | stays _ h => exact ⟨hshape h hconf hheld, nofun⟩
  | leaves _ h => exact ⟨hshape h nofun nofun, nofun⟩
  | mark _ _ h | toGap _ _ h | dataField _ _ h => exact ⟨hshape h nofun hheld, nofun⟩
  | idField h => exact ⟨hshape h nofun nofun, nofun⟩
  | byte e cells _ h => exact ⟨hshape h (hjoined e cells) hheld, nofun⟩
  | idHeld e cells y n hy h =>
    refine ⟨hshape h nofun fun z hz c hc => ?_, nofun⟩
    cases hz
    rw [hy] at hc
    exact hjoined e cells c (List.mem_reverse.1 (List.mem_of_mem_take hc))
  | pair e cells y _ _ _ _ hy _ h =>
    refine ⟨hshape h nofun nofun, fun z hz c hc => ?_⟩
    cases hz
    rw [hy] at hc
    exact hjoined e cells c (List.mem_reverse.1 hc)

/-! ## Ranked lists -/

/-- R123: a byte's weight is at most 30 when its confidence and the bonus are at most 15. -/
theorem byteWeight_le {bonus c : Nat} (hbonus : bonus ≤ 15) (hc : c ≤ 15) (good : Bool) : byteWeight bonus good c ≤ 30 := by
  unfold byteWeight
  split <;> omega

/-- R120, R125: the merge keeps every candidate list ranked. -/
theorem Ranked.mergeRange {weight : Nat → Nat} (lo hi : Nat) :
    ∀ (pos : Nat) (lists : List (List Candidate)) (bytes : List Byte) (confs : List Nat),
      (∀ c ∈ confs, weight c ≤ 30) → (∀ l ∈ lists, Ranked l) →
      ∀ l ∈ mergeRange weight lo hi pos lists bytes confs, Ranked l
  | pos, l :: ls, b :: bs, c :: cs, hweight, hlists => by
    obtain ⟨hhead, htail⟩ := List.forall_mem_cons.1 hlists
    obtain ⟨hc, hcs⟩ := List.forall_mem_cons.1 hweight
    refine List.forall_mem_cons.2 ⟨?_, Ranked.mergeRange lo hi (pos + 1) ls bs cs hcs htail⟩
    split
    · exact hhead.updateList hc
    · exact hhead
  | _, [], _, _, _, _ => by simp [Machine.mergeRange]
  | _, _ :: _, [], _, _, hlists => by simpa [Machine.mergeRange] using hlists
  | _, _ :: _, _ :: _, [], _, hlists => by simpa [Machine.mergeRange] using hlists

/-- Every candidate list in candidate memory is ranked. -/
def State.ListsRanked (s : State) : Prop := ∀ x ∈ s.slots, ∀ l ∈ x.2.lists, Ranked l

theorem State.ListsRanked.setSlot {s : State} (h : s.ListsRanked) (i : Nat) {x : Slot} (hx : ∀ l ∈ x.lists, Ranked l) :
    (s.setSlot i x).ListsRanked := by
  intro y hy
  obtain rfl | hy := Table.mem_put hy
  · exact hx
  · exact h y hy

theorem State.ListsRanked.get {s : State} (h : s.ListsRanked) {i : Nat} {x : Slot} (hx : Table.get s.slots i = some x) :
    ∀ l ∈ x.lists, Ranked l := h _ (Table.mem_of_get hx)

theorem ranked_nil : Ranked [] := ⟨Nat.zero_le 3, List.nodup_nil, nofun, List.Pairwise.nil⟩

theorem State.ListsRanked.receive {s : State} (h : s.ListsRanked) (a : Attempt) : (s.receive a).ListsRanked := by
  obtain ⟨-, heq⟩ | ⟨-, ⟨i, e, -, hknown⟩ | ⟨-, heq⟩⟩ := State.receive_cases s a
  · rw [heq]
    exact h
  · obtain ⟨heq, -⟩ | ⟨heq, -⟩ | ⟨heq, -⟩ := hknown <;> rw [heq] <;> exact h
  · rw [heq]
    obtain heq | ⟨j, r, i, -, -, heq⟩ := State.accommodate_cases s a <;> rw [heq]
    · exact h
    · rw [State.allocate_same]
      refine State.ListsRanked.setSlot (s := s) h i (x := Slot.fresh a.dataLength) fun l hl => ?_
      rw [List.eq_of_mem_replicate hl]
      exact ranked_nil

/-- Every effect keeps the lists ranked: fresh slots hold empty lists, and the merge weighs at most 30. -/
theorem State.ListsRanked.effect {s t : State} (he : s.Effect t) (h : s.ListsRanked) (hbonus : s.engine.bonus ≤ 15)
    (hhand : ∀ x, s.engine.hand = some x → ∀ c ∈ x.attempt.confidences, c ≤ 15) : t.ListsRanked := by
  cases he with
  | outside hst =>
    rw [hst]
    exact h
  | lane | settings | profile | preset | openVolume | closeVolume | abort | reset => exact h
  | release i e =>
    rw [State.releaseNow_frame]
    exact h
  | complete i =>
    rw [State.completePass_frame]
    exact h
  | grant =>
    obtain heq | ⟨l, arb, a, rest, -, -, -, heq⟩ := s.grantOne_popped <;> rw [heq]
    · exact h
    · exact State.ListsRanked.receive (s := s.popped l arb rest) h a
  | advance hand upTo _ hheld =>
    unfold State.advanceMerge
    split
    next => exact h
    next x hx =>
      exact h.setSlot hand.entry (x := { x with lists := mergeRange _ _ _ 0 x.lists _ _ })
        (Ranked.mergeRange _ _ 0 _ _ _ (fun c hc => byteWeight_le hbonus (hhand hand hheld c hc) _) (h.get hx))
  | endMerge hand =>
    obtain ⟨heq, -⟩ | ⟨e, x, -, hx, heq⟩ := s.endMerge_cases hand <;> rw [heq]
    · exact h
    · refine State.ListsRanked.setSlot (s := s) h hand.entry (x := x.afterMerge e hand.attempt) ?_
      have hlists : (x.afterMerge e hand.attempt).lists = x.lists := by
        unfold Slot.afterMerge
        split <;> rfl
      rw [hlists]
      exact h.get hx
  | evaluation hand =>
    obtain ⟨heq, -⟩ | ⟨e, x, d, e', -, hx, -, -, heq⟩ := s.completeEvaluation_cases hand <;> rw [heq]
    · exact h
    · have hset := State.ListsRanked.setSlot (s := s) h hand.entry (x := ⟨x.lists, d.witness, d.image⟩)
        (State.ListsRanked.get (x := x) h hx)
      obtain ⟨-, hslots, -⟩ := State.noteStatus_frame
        ((s.setEntry hand.entry e').setSlot hand.entry ⟨x.lists, d.witness, d.image⟩) e.key hand.attempt.lane e.status
        e'.status
      intro y hy
      exact hset y (hslots ▸ hy)

/-! ## The obligation -/

/-- The evidence, as what the lanes and the hand carry, the two bonuses and the lists. -/
theorem State.evidenceSound_iff {s : State} :
    s.EvidenceSound ↔
      s.Carries Framer.ConfidencesBounded (fun a => ∀ c ∈ a.confidences, c ≤ 15)
        ∧ s.settings.crcBonus ≤ 15 ∧ s.engine.bonus ≤ 15 ∧ s.ListsRanked := by
  constructor
  · rintro ⟨hconf, hheld, hqueue, hhand, hset, hlatched, hlists⟩
    exact ⟨⟨fun i => ⟨⟨hconf i, hheld i⟩, hqueue i⟩, hhand⟩, hset, hlatched, hlists⟩
  · rintro ⟨⟨hlanes, hhand⟩, hset, hlatched, hlists⟩
    exact ⟨fun i => (hlanes i).1.1, fun i => (hlanes i).1.2, fun i => (hlanes i).2, hhand, hset, hlatched, hlists⟩

theorem Settings.write_crcBonus {t : Settings} (h : t.crcBonus ≤ 15) (offset : Nat) (b : Byte) :
    (t.write offset b).crcBonus ≤ 15 := by
  unfold Settings.write
  split
  case h_4 => exact clampNat_le 15 _
  all_goals exact h

/-- R179: the CRC bonus stays within 15. -/
theorem State.Effect.crcBonus {s t : State} (he : s.Effect t) (h : s.settings.crcBonus ≤ 15) :
    t.settings.crcBonus ≤ 15 := by
  cases he with
  | outside hst =>
    rw [hst]
    exact h
  | lane | profile | preset | openVolume | closeVolume | abort => exact h
  | settings offset b => exact Settings.write_crcBonus h offset b
  | release i e =>
    rw [State.releaseNow_frame]
    exact h
  | reset =>
    have hreset : Settings.reset.crcBonus ≤ 15 := by decide
    exact hreset
  | complete i =>
    rw [State.completePass_frame]
    exact h
  | grant =>
    obtain heq | ⟨l, arb, a, rest, -, -, -, heq⟩ := s.grantOne_popped <;> rw [heq]
    · exact h
    · rw [State.receive_frame]
      exact h
  | advance hand upTo =>
    obtain ⟨heq, -⟩ := State.advanceMerge_frame s hand upTo
    rw [heq]
    exact h
  | endMerge hand =>
    rw [State.endMerge_frame]
    exact h
  | evaluation hand =>
    rw [State.completeEvaluation_frame]
    exact h

theorem State.EvidenceSound.effect {s t : State} (he : s.Effect t) (h : s.EvidenceSound) : t.EvidenceSound := by
  obtain ⟨hcarries, hset, hlatched, hlists⟩ := State.evidenceSound_iff.1 h
  have hcarried := State.Carries.effect he Framer.confidencesBounded_keeps ⟨nofun, nofun⟩ (fun _ _ _ hx => hx) hcarries
  refine State.evidenceSound_iff.2 ⟨hcarried, he.crcBonus hset, ?_, hlists.effect he hlatched hcarries.2⟩
  obtain ⟨-, hsame | hreset⟩ | ⟨l, a, rest, i, -, -, hnew⟩ := he.handChange
  · exact hsame ▸ hlatched
  · rw [hreset]
    decide
  · exact hnew ▸ hset

/-- Settles O54: every effect keeps the confidences bounded through the framer's moves, and the lists ranked because a
byte then weighs at most 30. -/
theorem candidateListsStayRanked : Obligations.CandidateListsStayRanked :=
  fun _ _ hs hstep => step_keeps (fun _ _ h => h) (fun _ _ he h => h.effect he) hstep hs

end Sys2Proof.Machine
end

section
/-! SUPPORT. Whole records (R73, R82, R104, R116): the framer's fields, the lengths of attempts, slots and images, and the
obligation they settle. -/

namespace Sys2Proof.Machine

/-! ## The framer -/

/-- A pair reported holds as many bytes and confidences as its ID's data length and the CRC give (R17). -/
def FieldPair.Whole (x : FieldPair) : Prop :=
  x.bytes.length = x.id.dataLength + 2 ∧ x.confidences.length = x.id.dataLength + 2

/-- R13 to R17: every move keeps the framer whole, and a pair is reported with its last byte. -/
theorem Framer.whole_keeps : FramerKeeps Framer.Whole FieldPair.Whole := by
  refine .of_moves fun f g x hf hmove => ?_
  obtain ⟨hlength, hgap, hdata⟩ := hf
  have hempty {m : FramerMode} {held : Option HeldId} (h : g.Shape m held [] [])
      (hheld : m = .gap ∨ (m = .mark ∧ g.markFromGap = true) ∨ m = .data → held.isSome = true) : g.Whole := by
    obtain ⟨hmode, hid, hbytes, hconf⟩ := h
    refine ⟨by rw [hconf, hbytes]; rfl, fun hm => ?_, fun hm => ?_⟩
    · rw [hmode] at hm
      exact hid ▸ hheld (hm.imp_right .inl)
    · obtain ⟨y, hy⟩ := Option.isSome_iff_exists.1 (hheld (.inr (.inr (hmode ▸ hm))))
      exact ⟨y, hid ▸ hy, by rw [hbytes]; exact Nat.succ_pos _⟩
  have hfree {m : FramerMode} (hm : m = .hunt ∨ m = .stopped) :
      m = .gap ∨ (m = .mark ∧ g.markFromGap = true) ∨ m = .data → (none : Option HeldId).isSome = true := by
    obtain rfl | rfl := hm <;> simp
  cases hmove with
  | stays hfrom h =>
    obtain ⟨hmode, hid, hbytes, hconf⟩ := h
    refine ⟨⟨by rw [hconf, hbytes, hlength], ?_, ?_⟩, nofun⟩
    · rw [hmode, hfrom, hid]
      exact hgap
    · rw [hmode, hid, hbytes]
      exact hdata
  | leaves hm h => exact ⟨hempty h (hfree hm), nofun⟩
  | mark hm hfrom h =>
    refine ⟨hempty h fun hm' => ?_, nofun⟩
    obtain hm' | ⟨-, hm'⟩ | hm' := hm'
    · cases hm'
    · rw [hfrom, beq_iff_eq] at hm'
      exact hgap (.inl hm')
    · cases hm'
  | toGap hm hfrom h | dataField hm hfrom h => exact ⟨hempty h fun _ => hgap (.inr ⟨hm, hfrom⟩), nofun⟩
  | idField h => exact ⟨hempty h (by simp), nofun⟩
  | byte e cells hm h =>
    obtain ⟨hmode, hid, hbytes, hconf⟩ := h
    refine ⟨⟨by rw [hconf, hbytes]; exact congrArg (· + 1) hlength, fun hm' => ?_, fun hm' => ?_⟩, nofun⟩
    · rw [hmode] at hm'
      obtain hm | ⟨hm, -⟩ := hm <;> rw [hm] at hm' <;> simp at hm'
    · rw [hmode] at hm'
      obtain hm | ⟨-, y, hy, hshort⟩ := hm
      · rw [hm] at hm'
        cases hm'
      · exact ⟨y, hid ▸ hy, hbytes ▸ hshort⟩
  | idHeld e cells y n _ h => exact ⟨hempty h fun _ => rfl, nofun⟩
  | pair e cells y hmode hid hlong hbytes hconf hm h =>
    refine ⟨hempty h (hfree hm), fun z hz => ?_⟩
    cases hz
    obtain ⟨w, hw, hshort⟩ := hdata hmode
    obtain rfl : w = y.id := Option.some.inj (hw.symm.trans hid)
    refine ⟨?_, ?_⟩
    · rw [hbytes, List.length_reverse, List.length_cons]
      omega
    · rw [hconf, List.length_reverse, List.length_cons, hlength]
      omega

/-! ## Slots -/

/-- R108: a fresh slot is whole. -/
theorem Slot.fresh_whole (dataLength : Nat) : (Slot.fresh dataLength).Whole dataLength :=
  ⟨List.length_replicate, List.length_replicate, nofun⟩

/-- R133 to R136: the witness after a merge is the one before or the attempt's bytes. -/
theorem Slot.Whole.afterMerge {x : Slot} {e : Entry} {a : Attempt} (h : x.Whole e.dataLength)
    (ha : a.bytes.length = e.dataLength + 2) : (x.afterMerge e a).Whole e.dataLength := by
  have ⟨hlists, himage, hwitness⟩ := h
  have htaken : ({ x with witness := some a.bytes } : Slot).Whole e.dataLength :=
    ⟨hlists, himage, fun w hw => by cases hw; exact ha⟩
  by_cases hgood : a.crcGood = true
  · cases hw : x.witness with
    | none =>
      rw [(Entry.afterMerge_first e hgood hw).2]
      exact htaken
    | some w =>
      have hkept : ({ x with witness := some w } : Slot).Whole e.dataLength := ⟨hlists, himage, hw ▸ hwitness⟩
      by_cases heq : a.bytes = w
      · rw [(Entry.afterMerge_confirms e hgood hw heq).2]
        exact hkept
      · obtain hweak | hstrong := Nat.eq_zero_or_pos e.confirmations
        · rw [(Entry.afterMerge_replaces e hgood hw heq hweak).2]
          exact htaken
        · rw [(Entry.afterMerge_conflicts e hgood hw heq hstrong).2]
          exact hkept
  · rw [(Entry.afterMerge_bad e (by simpa using hgood)).2]
    exact h

/-- A decision whose image and witness, if any, have `n` bytes. -/
def Decision.Sized (d : Decision) (n : Nat) : Prop := d.image.length = n ∧ ∀ w, d.witness = some w → w.length = n

section decide
variable {e : Entry} {n : Nat} {image : List Byte}

theorem Entry.unchanged_sized (himage : image.length = n) {witness : Option (List Byte)}
    (hw : ∀ w, witness = some w → w.length = n) : (e.unchanged witness image).Sized n := ⟨himage, hw⟩

/-- R142, R143. -/
theorem Entry.weighVote_sized (quorum : Nat) {w : List Byte} (hw : w.length = n) (himage : image.length = n)
    (good : Bool) : (e.weighVote quorum w image good).Sized n := by
  have hsame : (e.unchanged (some w) w).Sized n := Entry.unchanged_sized hw fun _ h => by cases h; exact hw
  have hvoted : (e.unchanged (some image) image).Sized n := Entry.unchanged_sized himage fun _ h => by cases h; exact himage
  unfold Entry.weighVote
  dsimp only
  split
  · exact hsame
  · split
    · split
      · exact hsame
      · exact hsame
    · split
      · exact hvoted
      · exact hsame

/-- R147: every good trial image is as long as the voted image. -/
theorem mem_goodTrials_length {p : Profile} {deleted : Bool} {lists : List (List Candidate)} {ks : List Nat}
    {image : List Byte} (h : image ∈ goodTrials p deleted lists ks) : image.length = lists.length := by
  obtain ⟨t, -, rfl⟩ := List.mem_map.1 (List.mem_filter.1 h).1
  rw [trialImage_length, votedImage_length]

/-- R147, R148. -/
theorem Entry.repairSearch_sized (p : Profile) {lists : List (List Candidate)} (hlists : lists.length = n) (k : List Nat)
    (depth : Nat) : (e.repairSearch p lists k depth).Sized n := by
  have hkept : (e.unchanged none (votedImage lists)).Sized n :=
    Entry.unchanged_sized (by rw [votedImage_length, hlists]) nofun
  unfold Entry.repairSearch
  dsimp only
  split
  · exact hkept
  · split
    · exact hkept
    next image himage =>
      have hlength := mem_goodTrials_length (himage ▸ List.mem_singleton_self image)
      exact ⟨hlength.trans hlists, fun w hw => by cases hw; exact hlength.trans hlists⟩
    · exact hkept

/-- R141 to R148: the evaluation's image and witness have as many bytes as the slot has lists. -/
theorem Entry.decide_sized (p : Profile) {x : Slot} (h : x.Whole e.dataLength) (margin depth quorum : Nat) :
    (e.decide p x margin depth quorum).Sized (e.dataLength + 2) := by
  obtain ⟨hlists, -, hwitness⟩ := h
  have hvoted : (votedImage x.lists).length = e.dataLength + 2 := by rw [votedImage_length, hlists]
  unfold Entry.decide
  dsimp only
  split
  next w hw => exact Entry.weighVote_sized quorum (hwitness w hw) hvoted _
  next =>
    split
    · exact Entry.unchanged_sized hvoted nofun
    · split
      · exact ⟨hvoted, fun w hw => by cases hw; exact hvoted⟩
      · exact Entry.repairSearch_sized p hlists _ depth

end decide

/-! ## Slots of entries -/

/-- Every entry's slot is whole. -/
def State.SlotsWhole (s : State) : Prop :=
  ∀ i e, Table.get s.entries i = some e → ∃ x, Table.get s.slots i = some x ∧ x.Whole e.dataLength

/-- The attempt in hand has its entry's data length. -/
def State.HandFits (s : State) : Prop :=
  ∀ h, s.engine.hand = some h → ∀ e, Table.get s.entries h.entry = some e → e.dataLength = h.attempt.dataLength

section slots
variable {s : State}

theorem State.SlotsWhole.setEntry (h : s.SlotsWhole) {i : Nat} {e e' : Entry} (hget : Table.get s.entries i = some e)
    (hlength : e'.dataLength = e.dataLength) : (s.setEntry i e').SlotsWhole := by
  intro k f hf
  rw [State.setEntry_entries, Table.get_put] at hf
  split at hf
  next hk =>
    cases hf
    subst hk
    exact hlength ▸ h k e hget
  next => exact h k f hf

theorem State.SlotsWhole.setBoth (h : s.SlotsWhole) (i : Nat) {e : Entry} {x : Slot} (hx : x.Whole e.dataLength) :
    ((s.setEntry i e).setSlot i x).SlotsWhole := by
  intro k f hf
  have hf : Table.get (Table.put s.entries i e) k = some f := hf
  change ∃ y, Table.get (Table.put s.slots i x) k = some y ∧ _
  rw [Table.get_put] at hf ⊢
  split at hf
  next hk =>
    cases hf
    rw [if_pos hk]
    exact ⟨x, rfl, hx⟩
  next hk =>
    rw [if_neg hk]
    exact h k f hf

theorem State.SlotsWhole.of_fewer {t : State} (h : s.SlotsWhole)
    (hentries : ∀ k f, Table.get t.entries k = some f → Table.get s.entries k = some f) (hslots : t.slots = s.slots) :
    t.SlotsWhole := fun i e he => hslots ▸ h i e (hentries i e he)

theorem State.HandFits.of_fewer {t : State} (h : s.HandFits)
    (hentries : ∀ k f, Table.get t.entries k = some f → Table.get s.entries k = some f)
    (hhand : t.engine.hand = s.engine.hand) : t.HandFits :=
  fun x hx e he => h x (hhand ▸ hx) e (hentries _ e he)

theorem State.HandFits.setEntry (h : s.HandFits) {i : Nat} {e e' : Entry} (hget : Table.get s.entries i = some e)
    (hlength : e'.dataLength = e.dataLength) : (s.setEntry i e').HandFits := by
  intro x hx f hf
  rw [State.setEntry_entries, Table.get_put] at hf
  split at hf
  next hk =>
    cases hf
    exact hlength.trans (h x hx e (hk ▸ hget))
  next => exact h x hx f hf

theorem State.startMerge_handFits {i : Nat} {e : Entry} {a : Attempt} (hlength : a.dataLength = e.dataLength) :
    (s.startMerge i e a).HandFits := by
  intro x hx f hf
  cases hx
  have hf : Table.get (Table.put s.entries i { e with busy := true }) i = some f := hf
  rw [Table.get_put_same] at hf
  cases hf
  exact hlength.symm

/-- R104 to R109: a granted attempt finds a whole slot of its length, or gets one. -/
theorem State.SlotsWhole.receive (h : s.SlotsWhole) (hhand : s.HandFits) (hw : s.TablesCanonical) (a : Attempt) :
    (s.receive a).SlotsWhole ∧ (s.receive a).HandFits := by
  obtain ⟨-, heq⟩ | ⟨-, ⟨i, e, hf, hknown⟩ | ⟨hf, heq⟩⟩ := State.receive_cases s a
  · rw [heq]
    exact ⟨h, hhand⟩
  · have he := State.get_of_findEntry hw hf
    obtain ⟨heq, -⟩ | ⟨heq, -⟩ | ⟨heq, -, hlength, -⟩ := hknown <;> rw [heq]
    · exact ⟨State.SlotsWhole.setEntry (s := s.setVolume a.key.track.volume _) h he rfl,
        State.HandFits.setEntry (s := s.setVolume a.key.track.volume _) hhand he rfl⟩
    · exact ⟨h.setEntry he rfl, hhand.setEntry he rfl⟩
    · exact ⟨h.setEntry (e' := { e with busy := true }) he rfl, State.startMerge_handFits hlength⟩
  · rw [heq]
    obtain heq | ⟨j, r, i, -, -, heq⟩ := State.accommodate_cases s a <;> rw [heq]
    · exact ⟨h, hhand⟩
    · refine ⟨?_, State.startMerge_handFits rfl⟩
      have halloc : (s.allocate j r i a).SlotsWhole := by
        rw [State.allocate_same]
        exact h.setBoth i (e := Entry.fresh a s.settings.confirmTarget) (Slot.fresh_whole a.dataLength)
      refine halloc.setEntry (e := Entry.fresh a s.settings.confirmTarget)
        (e' := { Entry.fresh a s.settings.confirmTarget with busy := true }) ?_ rfl
      rw [State.allocate_same]
      exact Table.get_put_same _ _ _

/-- Every effect keeps the entries' slots whole and the hand fitting its entry. -/
theorem State.SlotsWhole.effect {t : State} (he : s.Effect t) (h : s.SlotsWhole) (hfits : s.HandFits)
    (hattempt : ∀ x, s.engine.hand = some x → x.attempt.Whole) (hw : s.TablesCanonical) :
    t.SlotsWhole ∧ t.HandFits := by
  have ⟨hentries, _⟩ := hw
  cases he with
  | outside hst =>
    rw [hst]
    exact ⟨h, hfits⟩
  | lane | settings | profile | preset | openVolume | abort => exact ⟨h, hfits⟩
  | closeVolume v =>
    have hfewer (k : Nat) (f : Entry) (hf : Table.get (s.closeNow v).entries k = some f) :
        Table.get s.entries k = some f := ((Table.get_filter hentries _).1 hf).1
    exact ⟨h.of_fewer hfewer rfl, hfits.of_fewer hfewer rfl⟩
  | release i e =>
    have hfewer (k : Nat) (f : Entry) (hf : Table.get (Table.drop s.entries i) k = some f) :
        Table.get s.entries k = some f := ((Table.get_drop hentries).1 hf).2
    rw [State.releaseNow_frame]
    exact ⟨h.of_fewer hfewer rfl, hfits.of_fewer hfewer rfl⟩
  | reset => exact ⟨nofun, nofun⟩
  | complete i =>
    rw [State.completePass_frame]
    exact ⟨h, hfits⟩
  | grant =>
    obtain heq | ⟨l, arb, a, rest, -, -, -, heq⟩ := s.grantOne_popped <;> rw [heq]
    · exact ⟨h, hfits⟩
    · exact State.SlotsWhole.receive (s := s.popped l arb rest) h hfits hw a
  | advance hand upTo =>
    obtain ⟨hframe, -⟩ := State.advanceMerge_frame s hand upTo
    refine ⟨?_, hframe ▸ hfits⟩
    unfold State.advanceMerge
    split
    next => exact h
    next x hx =>
      intro k f hf
      obtain ⟨y, hy, hlists, himage, hwitness⟩ := h k f hf
      change ∃ z, Table.get (Table.put s.slots hand.entry _) k = some z ∧ _
      rw [Table.get_put]
      split
      next hk =>
        obtain rfl : x = y := Option.some.inj (hx.symm.trans (hk ▸ hy))
        exact ⟨_, rfl, (mergeRange_length _ _ _ _ _ _ _).trans hlists, himage, hwitness⟩
      next => exact ⟨y, hy, hlists, himage, hwitness⟩
  | endMerge hand hmerge hhand =>
    obtain ⟨heq, -⟩ | ⟨e, x, hge, hgx, heq⟩ := s.endMerge_cases hand <;> rw [heq]
    · exact ⟨h, hfits⟩
    · obtain ⟨-, -, -, hlength, -⟩ := Entry.afterMerge_frame e x.witness hand.attempt
      obtain ⟨y, hy, hyw⟩ := h _ e hge
      obtain rfl : x = y := Option.some.inj (hgx.symm.trans hy)
      have hbytes : hand.attempt.bytes.length = e.dataLength + 2 := by
        rw [hfits hand hhand e hge]
        exact (hattempt hand hhand).1
      exact ⟨h.setBoth hand.entry (hlength.symm ▸ hyw.afterMerge hbytes), hfits.setEntry hge hlength⟩
  | evaluation hand heval hhand =>
    obtain ⟨heq, -⟩ | ⟨e, x, d, e', hge, hgx, hd, he', heq⟩ := s.completeEvaluation_cases hand <;> rw [heq]
    · exact ⟨h, hfits⟩
    · obtain ⟨hent, hslots, -⟩ := State.noteStatus_frame
        ((s.setEntry hand.entry e').setSlot hand.entry ⟨x.lists, d.witness, d.image⟩) e.key hand.attempt.lane e.status
        e'.status
      obtain ⟨y, hy, hyw⟩ := h _ e hge
      obtain rfl : x = y := Option.some.inj (hgx.symm.trans hy)
      obtain ⟨himage, hwitness⟩ : d.Sized (e.dataLength + 2) := hd ▸ Entry.decide_sized _ hyw _ _ _
      have hlength : e'.dataLength = e.dataLength := he' ▸ rfl
      have hslot : Slot.Whole ⟨x.lists, d.witness, d.image⟩ e'.dataLength := hlength ▸ ⟨hyw.1, himage, hwitness⟩
      exact ⟨State.SlotsWhole.of_fewer (h.setBoth hand.entry hslot) (fun k f hf => hent ▸ hf) hslots, nofun⟩

end slots

/-! ## The obligation -/

theorem State.recordsWhole_iff {s : State} :
    s.RecordsWhole ↔ s.Carries Framer.Whole Attempt.Whole ∧ s.SlotsWhole ∧ s.HandFits := by
  constructor
  · rintro ⟨hlanes, hslots, hhand⟩
    exact ⟨⟨hlanes, fun x hx => (hhand x hx).1⟩, hslots, fun x hx => (hhand x hx).2⟩
  · rintro ⟨⟨hlanes, hattempt⟩, hslots, hfits⟩
    exact ⟨hlanes, hslots, fun x hx => ⟨hattempt x hx, hfits x hx⟩⟩

theorem State.RecordsWhole.effect {s t : State} (he : s.Effect t) (h : s.RecordsWhole) (hw : s.TablesCanonical) :
    t.RecordsWhole := by
  obtain ⟨hcarries, hslots, hfits⟩ := State.recordsWhole_iff.1 h
  exact State.recordsWhole_iff.2
    ⟨hcarries.effect he Framer.whole_keeps ⟨rfl, by simp [Framer.reset], by simp [Framer.reset]⟩ fun _ _ _ hx => hx,
      hslots.effect he hfits hcarries.2 hw⟩

/-- Settles O55: the framer's moves keep it whole and report whole pairs, and every effect keeps the slots' lengths, the
merge because the attempt in hand has its entry's. -/
theorem recordsStayWhole : Obligations.RecordsStayWhole := by
  intro s t hwhole hcanonical hstep
  exact (step_keeps (P := fun s => s.RecordsWhole ∧ s.Tables False) (fun _ _ h => h)
    (fun _ _ he ⟨h, hw⟩ => ⟨h.effect he hw.1, hw.effect he⟩) hstep ⟨hwhole, hcanonical, False.elim⟩).1

end Sys2Proof.Machine
end

section
/-! SUPPORT. Named volumes and lanes (R61, R73, R82, R97): the keys and descriptors an effect can bring, what it does to a
volume's state and geometry, the queues of the lanes, and the obligation they settle. -/

namespace Sys2Proof.Machine

/-! ## Keys of the tables -/

/-- A sector that waits at the head of a queue. -/
def State.Waits (s : State) (k : SectorKey) : Prop :=
  ∃ (l : Fin 4) (a : Attempt) (rest : List Attempt), (s.lanes[l]).queue = a :: rest ∧ a.key = k

section keys
variable {s : State}

theorem State.setEntry_key {i : Nat} {e' : Entry} {x : Nat × Entry} (hx : x ∈ (s.setEntry i e').entries) :
    x.2.key = e'.key ∨ x ∈ s.entries := (Table.mem_put hx).imp_left fun (h : x = _) => h ▸ rfl

theorem State.setTrack_key {j : Nat} {r : Track} {x : Nat × Track} (hx : x ∈ (s.setTrack j r).tracks) :
    x.2.key = r.key ∨ x ∈ s.tracks := (Table.mem_put hx).imp_left fun (h : x = _) => h ▸ rfl

theorem State.noteTrack_key {j : Nat} {r : Track} {x : Nat × Track} (hx : x ∈ (s.noteTrack j r).tracks) :
    x.2.key = r.key ∨ x ∈ s.tracks := by
  obtain ⟨heq, -⟩ | ⟨-, -, heq⟩ := State.noteTrack_cases s j r <;> rw [heq] at hx
  · exact State.setTrack_key hx
  · exact State.setTrack_key (r := { r with done := true }) hx

/-- A change of status brings no new track. -/
theorem State.noteStatus_trackKey {k : SectorKey} {l : Fin 4} {old new : Status} {x : Nat × Track}
    (hx : x ∈ (s.noteStatus k l old new).tracks) : ∃ y ∈ s.tracks, y.2.key = x.2.key := by
  have hsame (h : x ∈ s.tracks) : ∃ y ∈ s.tracks, y.2.key = x.2.key := ⟨x, h, rfl⟩
  unfold State.noteStatus at hx
  split at hx
  · exact hsame hx
  · split at hx
    · unfold State.noteSettled at hx
      dsimp only at hx
      split at hx
      next j r hf =>
        obtain ⟨-, hmem⟩ := State.findTrack_some hf
        obtain hkey | hold := State.noteTrack_key hx
        · exact ⟨_, hmem, hkey.symm⟩
        · exact hsame hold
      next => exact hsame hx
    · exact hsame hx
    · exact hsame hx

/-- R104 to R109: a classification brings no key but the attempt's. -/
theorem State.receive_keys (s : State) (a : Attempt) :
    (∀ x ∈ (s.receive a).entries, x.2.key = a.key ∨ ∃ y ∈ s.entries, y.2.key = x.2.key)
      ∧ ∀ x ∈ (s.receive a).tracks, x.2.key = a.key.track ∨ x ∈ s.tracks := by
  obtain ⟨-, heq⟩ | ⟨-, ⟨i, e, hf, hknown⟩ | ⟨hf, heq⟩⟩ := State.receive_cases s a
  · rw [heq]
    exact ⟨fun x hx => .inr ⟨x, hx, rfl⟩, fun x hx => .inr hx⟩
  · obtain ⟨-, hmem⟩ := State.findEntry_some hf
    have hset (u : State) (hu : u.entries = s.entries) (e' : Entry) (hkey : e'.key = e.key) (x : Nat × Entry)
        (hx : x ∈ (u.setEntry i e').entries) : x.2.key = a.key ∨ ∃ y ∈ s.entries, y.2.key = x.2.key := by
      obtain h | h := State.setEntry_key hx
      · exact .inr ⟨_, hmem, (h.trans hkey).symm⟩
      · exact .inr ⟨x, hu ▸ h, rfl⟩
    obtain ⟨heq, -⟩ | ⟨heq, -⟩ | ⟨heq, -⟩ := hknown <;> rw [heq]
    · exact ⟨hset (s.setVolume a.key.track.volume _) rfl _ rfl, fun x hx => .inr hx⟩
    · exact ⟨hset s rfl _ rfl, fun x hx => .inr hx⟩
    · exact ⟨hset s rfl { e with busy := true } rfl, fun x hx => .inr hx⟩
  · rw [heq]
    obtain heq | ⟨j, r, i, htrack, -, heq⟩ := State.accommodate_cases s a <;> rw [heq]
    · exact ⟨fun x hx => .inr ⟨x, hx, rfl⟩, fun x hx => .inr hx⟩
    · have hrkey : r.key = a.key.track := by
        obtain hf | ⟨-, rfl, -⟩ := State.trackFor_some htrack
        · exact (State.findTrack_some hf).1
        · rfl
      rw [State.allocate_same]
      constructor
      · intro x hx
        obtain h | h := State.setEntry_key (s := s.allocated j r i a)
          (e' := { Entry.fresh a s.settings.confirmTarget with busy := true }) hx
        · exact .inl h
        · obtain h | h := State.setEntry_key (s := s) (e' := Entry.fresh a s.settings.confirmTarget) h
          · exact .inl h
          · exact .inr ⟨x, h, rfl⟩
      · intro x hx
        exact (State.setTrack_key (s := s) (r := { r with live := r.live + 1 }) hx).imp_left fun h => h.trans hrkey

theorem State.releaseNow_trackKey {i : Nat} {e : Entry} {x : Nat × Track} (hx : x ∈ (s.releaseNow i e).tracks) :
    ∃ y ∈ s.tracks, y.2.key = x.2.key := by
  unfold State.releaseNow at hx
  dsimp only at hx
  split at hx
  next j r hf =>
    obtain ⟨-, hmem⟩ := State.findTrack_some hf
    obtain hkey | hold := State.noteTrack_key hx
    · exact ⟨_, hmem, hkey.symm⟩
    · exact ⟨x, hold, rfl⟩
  next => exact ⟨x, hx, rfl⟩

/-- Every entry and track record an effect leaves has a key that stood in its table, or that of the sector at the head of a
queue. -/
theorem State.Effect.tableKeys {t : State} (he : s.Effect t) :
    (∀ x ∈ t.entries, (∃ y ∈ s.entries, y.2.key = x.2.key) ∨ s.Waits x.2.key)
      ∧ ∀ x ∈ t.tracks, (∃ y ∈ s.tracks, y.2.key = x.2.key) ∨ ∃ k, s.Waits k ∧ k.track = x.2.key := by
  have hentries : ∀ x ∈ s.entries, (∃ y ∈ s.entries, y.2.key = x.2.key) ∨ s.Waits x.2.key :=
    fun x hx => .inl ⟨x, hx, rfl⟩
  have htracks : ∀ x ∈ s.tracks, (∃ y ∈ s.tracks, y.2.key = x.2.key) ∨ ∃ k, s.Waits k ∧ k.track = x.2.key :=
    fun x hx => .inl ⟨x, hx, rfl⟩
  cases he with
  | outside hst =>
    rw [hst]
    exact ⟨hentries, htracks⟩
  | lane | settings | profile | preset | openVolume | abort => exact ⟨hentries, htracks⟩
  | closeVolume v => exact ⟨fun x hx => hentries x (List.mem_of_mem_filter hx), fun x hx => htracks x (List.mem_of_mem_filter hx)⟩
  | release i e =>
    refine ⟨fun x hx => ?_, fun x hx => .inl (State.releaseNow_trackKey hx)⟩
    rw [State.releaseNow_frame] at hx
    exact hentries x ((Table.drop_sublist _ _).subset hx)
  | reset => exact ⟨nofun, nofun⟩
  | complete i =>
    rw [State.completePass_frame]
    exact ⟨hentries, htracks⟩
  | grant =>
    obtain heq | ⟨l, arb, a, rest, -, -, hqueue, heq⟩ := s.grantOne_popped <;> rw [heq]
    · exact ⟨hentries, htracks⟩
    · obtain ⟨hent, htrk⟩ := State.receive_keys (s.popped l arb rest) a
      have hwaits : s.Waits a.key := ⟨l, a, rest, hqueue, rfl⟩
      constructor
      · intro x hx
        obtain h | h := hent x hx
        · exact .inr (h ▸ hwaits)
        · exact .inl h
      · intro x hx
        obtain h | h := htrk x hx
        · exact .inr ⟨a.key, hwaits, h.symm⟩
        · exact htracks x h
  | advance hand upTo =>
    obtain ⟨heq, -⟩ := State.advanceMerge_frame s hand upTo
    rw [heq]
    exact ⟨hentries, htracks⟩
  | endMerge hand =>
    obtain ⟨heq, -⟩ | ⟨e, x, hge, -, heq⟩ := s.endMerge_cases hand <;> rw [heq]
    · exact ⟨hentries, htracks⟩
    · obtain ⟨hkey, -⟩ := Entry.afterMerge_frame e x.witness hand.attempt
      refine ⟨fun y hy => ?_, htracks⟩
      have hy : y ∈ (s.setEntry hand.entry (e.afterMerge x.witness hand.attempt)).entries := hy
      obtain h | h := State.setEntry_key hy
      · exact .inl ⟨_, Table.mem_of_get hge, (h.trans hkey).symm⟩
      · exact hentries y h
  | evaluation hand =>
    obtain ⟨heq, -⟩ | ⟨e, x, d, e', hge, -, -, he', heq⟩ := s.completeEvaluation_cases hand <;> rw [heq]
    · exact ⟨hentries, htracks⟩
    · obtain ⟨hent, -⟩ := State.noteStatus_frame
        ((s.setEntry hand.entry e').setSlot hand.entry ⟨x.lists, d.witness, d.image⟩) e.key hand.attempt.lane e.status
        e'.status
      refine ⟨fun y hy => ?_, fun y hy => ?_⟩
      · have hy : y ∈ (s.setEntry hand.entry e').entries := hent ▸ hy
        have hkey : e'.key = e.key := he' ▸ rfl
        obtain h | h := State.setEntry_key hy
        · exact .inl ⟨_, Table.mem_of_get hge, (h.trans hkey).symm⟩
        · exact hentries y h
      · have hold := State.noteStatus_trackKey
          (s := (s.setEntry hand.entry e').setSlot hand.entry ⟨x.lists, d.witness, d.image⟩) (k := e.key)
          (l := hand.attempt.lane) (old := e.status) (new := e'.status) hy
        exact .inl hold

end keys

/-! ## Volumes -/

/-- Two volume records agree in their state and their sector range. -/
def Volume.SameRange (v w : Volume) : Prop :=
  w.isOpen = v.isOpen ∧ w.firstSector = v.firstSector ∧ w.sectorsPerTrack = v.sectorsPerTrack

/-- Every volume record of `t` agrees with that of `s` in state and sector range. -/
def State.SameRanges (s t : State) : Prop := ∀ v : Fin 8, (s.volumes[v]).SameRange t.volumes[v]

section ranges
variable {s : State}

theorem State.SameRanges.refl : s.SameRanges s := fun _ => ⟨rfl, rfl, rfl⟩

theorem State.SameRanges.setVolume {t : State} (h : s.SameRanges t) (w : Fin 8) {x : Volume}
    (hx : (t.volumes[w]).SameRange x) : s.SameRanges (t.setVolume w x) := by
  intro v
  by_cases hv : v = w
  · subst hv
    rw [State.setVolume_get]
    obtain ⟨hopen, hfirst, hper⟩ := h v
    obtain ⟨hopen', hfirst', hper'⟩ := hx
    exact ⟨hopen'.trans hopen, hfirst'.trans hfirst, hper'.trans hper⟩
  · rw [State.setVolume_get_ne _ _ _ _ hv]
    exact h v

theorem State.SameRanges.noteTrack {t : State} (h : s.SameRanges t) (j : Nat) (r : Track) :
    s.SameRanges (t.noteTrack j r) := by
  obtain ⟨heq, -⟩ | ⟨-, -, heq⟩ := State.noteTrack_cases t j r <;> rw [heq]
  · exact h
  · exact State.SameRanges.setVolume (t := t.setTrack j { r with done := true }) h r.key.volume ⟨rfl, rfl, rfl⟩

theorem State.SameRanges.noteStatus {t : State} (h : s.SameRanges t) (k : SectorKey) (l : Fin 4) (old new : Status) :
    s.SameRanges (t.noteStatus k l old new) := by
  unfold State.noteStatus
  split
  · exact h
  · split
    · have hcounted : s.SameRanges (t.setVolume k.track.volume
          { t.volumes[k.track.volume] with settled := (t.volumes[k.track.volume]).settled + 1 }) :=
        h.setVolume k.track.volume ⟨rfl, rfl, rfl⟩
      unfold State.noteSettled
      dsimp only
      split
      · exact State.SameRanges.noteTrack
          (t := ((t.setVolume k.track.volume
            { t.volumes[k.track.volume] with settled := (t.volumes[k.track.volume]).settled + 1 }).setLane l _).raise _)
          hcounted _ _
      · exact hcounted
    · exact h
    · exact h

theorem State.SameRanges.receive (s : State) (a : Attempt) : s.SameRanges (s.receive a) := by
  have hcounted (x : Volume) (hx : (s.volumes[a.key.track.volume]).SameRange x) :
      s.SameRanges (s.setVolume a.key.track.volume x) := State.SameRanges.refl.setVolume _ hx
  obtain ⟨-, heq⟩ | ⟨-, ⟨i, e, -, hknown⟩ | ⟨-, heq⟩⟩ := State.receive_cases s a
  · rw [heq]
    exact hcounted _ ⟨rfl, rfl, rfl⟩
  · obtain ⟨heq, -⟩ | ⟨heq, -⟩ | ⟨heq, -⟩ := hknown <;> rw [heq]
    · exact hcounted { s.volumes[a.key.track.volume] with surplus := satInc 65535 (s.volumes[a.key.track.volume]).surplus }
        ⟨rfl, rfl, rfl⟩
    · exact State.SameRanges.refl
    · exact State.SameRanges.refl
  · rw [heq]
    obtain heq | ⟨j, r, i, -, -, heq⟩ := State.accommodate_cases s a <;> rw [heq]
    · exact hcounted
        { s.volumes[a.key.track.volume] with tableFull := satInc 65535 (s.volumes[a.key.track.volume]).tableFull }
        ⟨rfl, rfl, rfl⟩
    · rw [State.allocate_same]
      exact hcounted { s.volumes[a.key.track.volume] with live := (s.volumes[a.key.track.volume]).live + 1 }
        ⟨rfl, rfl, rfl⟩

/-- What an effect does to the states and sector ranges of the volumes: nothing, or the opening of a FREE volume, the
closing of one that no lane and no attempt in hand names, or a reset. -/
theorem State.Effect.volumeChange {t : State} (he : s.Effect t) :
    s.SameRanges t
      ∨ (∃ (v n : Fin 8) (cylinders heads first perTrack : Nat), openInRange cylinders heads first perTrack = true
          ∧ (s.volumes[v]).isOpen = false
          ∧ t = s.setVolume v ⟨true, n, cylinders, heads, first, perTrack, 0, 0, 0, 0, 0, 0⟩)
      ∨ (∃ v, s.volumeBusy v = false ∧ t = s.closeNow v) ∨ t = s.resetBlocks := by
  cases he with
  | outside hst =>
    rw [hst]
    exact .inl State.SameRanges.refl
  | lane | settings | profile | preset | abort => exact .inl State.SameRanges.refl
  | openVolume v n cylinders heads first perTrack hrange hfree =>
    exact .inr (.inl ⟨v, n, cylinders, heads, first, perTrack, hrange, hfree, rfl⟩)
  | closeVolume v hfree => exact .inr (.inr (.inl ⟨v, hfree, rfl⟩))
  | release i e =>
    have hcounted : s.SameRanges ((({ s with entries := Table.drop s.entries i }).setVolume e.key.track.volume
        ((s.volumes[e.key.track.volume]).release (e.status == Status.settled))).freeUp 1) :=
      State.SameRanges.setVolume (t := { s with entries := Table.drop s.entries i }) (s := s) State.SameRanges.refl _
        ⟨rfl, rfl, rfl⟩
    refine .inl ?_
    unfold State.releaseNow
    dsimp only
    split
    · exact hcounted.noteTrack _ _
    · exact hcounted
  | reset => exact .inr (.inr (.inr rfl))
  | complete i =>
    rw [State.completePass_frame]
    exact .inl State.SameRanges.refl
  | grant =>
    obtain heq | ⟨l, arb, a, rest, -, -, -, heq⟩ := s.grantOne_popped <;> rw [heq]
    · exact .inl State.SameRanges.refl
    · exact .inl (State.SameRanges.receive (s.popped l arb rest) a)
  | advance hand upTo =>
    obtain ⟨heq, -⟩ := State.advanceMerge_frame s hand upTo
    rw [heq]
    exact .inl State.SameRanges.refl
  | endMerge hand =>
    rw [State.endMerge_frame]
    exact .inl State.SameRanges.refl
  | evaluation hand =>
    obtain ⟨heq, -⟩ | ⟨e, x, d, e', -, -, -, -, heq⟩ := s.completeEvaluation_cases hand <;> rw [heq]
    · exact .inl State.SameRanges.refl
    · exact .inl (State.SameRanges.noteStatus
        (t := (s.setEntry hand.entry e').setSlot hand.entry ⟨x.lists, d.witness, d.image⟩) State.SameRanges.refl e.key
        hand.attempt.lane e.status e'.status)

end ranges

/-! ## Names -/

/-- A lane's descriptor names volume `v` (R97). -/
def Lane.Names (l : Lane) (v : Fin 8) : Prop := ∃ d, (l.active = some d ∨ l.chain = some d) ∧ d.volume = v

theorem Lane.names_eq_true {l : Lane} {v : Fin 8} (h : l.Names v) : l.names v = true := by
  obtain ⟨d, hd | hd, rfl⟩ := h <;> simp [Lane.names, hd]

theorem Lane.Names.anchored {l m : Lane} {v : Fin 8} (h : m.Names v) (hactive : m.active = l.active)
    (hchain : m.chain = l.chain) : l.Names v := by
  unfold Lane.Names at h ⊢
  rwa [hactive, hchain] at h

/-- R60 to R62, R69: a change of a lane brings no descriptor but a posted one. -/
theorem Lane.Change.names {s : State} {i : Fin 4} {x : Lane} {v : Fin 8} (hx : Lane.Change s i x) (h : x.Names v) :
    (s.lanes[i]).Names v ∨ ∃ d, s.Posts d ∧ d.volume = v := by
  cases hx with
  | same | popped | counted => exact .inl h
  | abort discardQueue clearChain =>
    obtain ⟨d, hd | hd, rfl⟩ := h
    · exact .inl ⟨d, .inl hd, rfl⟩
    · cases clearChain
      · exact .inl ⟨d, .inr hd, rfl⟩
      · cases hd
  | completed =>
    obtain ⟨d, hd | hd, rfl⟩ := h <;> cases hd
  | promoted _ d hchain =>
    obtain ⟨d', hd | hd, rfl⟩ := h <;> cases hd
    exact .inl ⟨d, .inr hchain, rfl⟩
  | reset =>
    obtain ⟨d, hd | hd, rfl⟩ := h <;> cases hd
  | effect hx =>
    cases hx with
    | schedule | elapse => exact .inl h
    | chain d hd =>
      obtain ⟨d', hd' | hd', rfl⟩ := h
      · exact .inl ⟨d', .inl hd', rfl⟩
      · cases hd'
        exact .inr ⟨d, hd, rfl⟩
    | activate d hd =>
      obtain ⟨d', hd' | hd', rfl⟩ := h
      · cases hd'
        exact .inr ⟨d, hd, rfl⟩
      · exact .inl ⟨d', .inr hd', rfl⟩
    | interval d k ticks =>
      obtain ⟨c, heq, -⟩ := Lane.closeInterval_frame (s.laneEnv i d) d ticks s.lanes[i]
      rw [heq] at h
      exact .inl h
    | noIndex =>
      obtain ⟨hactive, hchain, -⟩ := (s.lanes[i]).noIndex_keeps
      exact .inl (h.anchored hactive hchain)
    | edge d =>
      obtain ⟨hactive, hchain, -⟩ := Lane.indexEdge_frame (s.profileOf d.volume) s.presets d s.lanes[i]
      exact .inl (h.anchored hactive hchain)

/-- An entry, a track record, a descriptor or the attempt in hand names volume `v`. -/
def State.Names (s : State) (v : Fin 8) : Prop :=
  (∃ e ∈ s.entries, e.2.key.track.volume = v) ∨ (∃ t ∈ s.tracks, t.2.key.volume = v)
    ∨ (∃ i : Fin 4, (s.lanes[i]).Names v) ∨ ∃ h, s.engine.hand = some h ∧ h.attempt.key.track.volume = v

theorem State.namedVolumesOpen_iff {s : State} :
    s.NamedVolumesOpen ↔ ∀ v, s.Names v → (s.volumes[v]).isOpen = true := by
  constructor
  · rintro ⟨hentries, htracks, hlanes, hhand⟩ v (⟨e, he, rfl⟩ | ⟨t, ht, rfl⟩ | ⟨i, d, hd, rfl⟩ | ⟨h, hh, rfl⟩)
    · exact hentries e he
    · exact htracks t ht
    · exact hlanes i d hd
    · exact hhand h hh
  · intro h
    exact ⟨fun e he => h _ (.inl ⟨e, he, rfl⟩), fun t ht => h _ (.inr (.inl ⟨t, ht, rfl⟩)),
      fun i d hd => h _ (.inr (.inr (.inl ⟨i, d, hd, rfl⟩))), fun x hx => h _ (.inr (.inr (.inr ⟨x, hx, rfl⟩)))⟩

/-- Whatever an effect leaves named was named, waited at the head of a queue, or was posted. -/
theorem State.Effect.names {s t : State} (he : s.Effect t) {v : Fin 8} (h : t.Names v) :
    s.Names v ∨ (∃ k, s.Waits k ∧ k.track.volume = v) ∨ ∃ d, s.Posts d ∧ d.volume = v := by
  obtain ⟨hentries, htracks⟩ := he.tableKeys
  obtain ⟨e, hmem, rfl⟩ | ⟨r, hmem, rfl⟩ | ⟨i, hi⟩ | ⟨x, hx, rfl⟩ := h
  · obtain ⟨y, hy, hkey⟩ | hwaits := hentries e hmem
    · exact .inl (.inl ⟨y, hy, by rw [hkey]⟩)
    · exact .inr (.inl ⟨_, hwaits, rfl⟩)
  · obtain ⟨y, hy, hkey⟩ | ⟨k, hwaits, hkey⟩ := htracks r hmem
    · exact .inl (.inr (.inl ⟨y, hy, by rw [hkey]⟩))
    · exact .inr (.inl ⟨k, hwaits, by rw [hkey]⟩)
  · obtain hold | hposted := (he.laneChange i).names hi
    · exact .inl (.inr (.inr (.inl ⟨i, hold⟩)))
    · exact .inr (.inr hposted)
  · obtain ⟨hsame | hnone, -⟩ | ⟨l, a, rest, i, hqueue, hnew, -⟩ := he.handChange
    · exact .inl (.inr (.inr (.inr ⟨x, hsame ▸ hx, rfl⟩)))
    · rw [hnone] at hx
      cases hx
    · rw [hnew] at hx
      cases hx
      exact .inr (.inl ⟨a.key, ⟨l, a, rest, hqueue, rfl⟩, rfl⟩)

/-- R97: a closed volume is no longer named. -/
theorem State.closeNow_not_names {s : State} {v : Fin 8} (hfree : s.volumeBusy v = false) : ¬ (s.closeNow v).Names v := by
  rintro (⟨e, he, hv⟩ | ⟨r, hr, hv⟩ | ⟨i, hi⟩ | ⟨x, hx, hv⟩)
  · simpa [hv] using (List.mem_filter.1 he).2
  · simpa [hv] using (List.mem_filter.1 hr).2
  · have hany : (s.lanes.toList.any fun l => l.names v) = false := (Bool.or_eq_false_iff.1 hfree).1
    have hmem : s.lanes[i] ∈ s.lanes.toList := by simp
    have hno := List.any_eq_false.1 hany _ hmem
    exact hno (Lane.names_eq_true hi)
  · exact State.hand_of_volumeFree hfree hx hv

/-! ## Queues -/

/-- A pass's queue at lane `i`: the lane is not IDLE, its descriptor is `d`, and the queue holds at most 6 attempts, all of
the descriptor's track (R73, R82). -/
structure Lane.OnPass (i : Fin 4) (d : Descriptor) (l : Lane) : Prop where
  busy : l.state ≠ .idle
  active : l.active = some d
  room : l.queue.length ≤ 6
  queued : ∀ a ∈ l.queue, a.lane = i ∧ a.key.track = ⟨d.volume, d.cylinder, d.head⟩

section onPass
variable {i : Fin 4} {d : Descriptor} {l : Lane}

theorem Lane.OnPass.consistent (h : l.OnPass i d) : l.Consistent i :=
  ⟨fun hidle => absurd hidle h.busy, h.room, fun a ha => ⟨(h.queued a ha).1, d, h.active, (h.queued a ha).2⟩⟩

theorem Lane.Consistent.onPass (h : l.Consistent i) (hd : l.active = some d) : l.OnPass i d := by
  obtain ⟨hidle, hroom, hqueued⟩ := h
  refine ⟨fun hstate => ?_, hd, hroom, fun a ha => ?_⟩
  · rw [(hidle hstate).1] at hd
    cases hd
  · obtain ⟨hlane, d', hd', hkey⟩ := hqueued a ha
    obtain rfl : d' = d := Option.some.inj (hd'.symm.trans hd)
    exact ⟨hlane, hkey⟩

theorem Lane.OnPass.settleFraming (h : l.OnPass i d) : l.settleFraming.OnPass i d := by
  have hstate : l.settleFraming.state ≠ .idle := by
    unfold Lane.settleFraming
    split
    · dsimp only
      split
      · decide
      · exact h.busy
    · exact h.busy
  rw [Lane.settleFraming_frame] at hstate ⊢
  exact ⟨hstate, h.active, h.room, h.queued⟩

/-- R73, R83: the cells bring only attempts of the pass, and no seventh. -/
theorem Lane.OnPass.takeCell {env : LaneEnv} (hnumber : env.number = i) (h : l.OnPass i d) (c : RecordedCell) :
    (l.takeCell env d c).OnPass i d := by
  unfold Lane.takeCell
  dsimp only
  split
  next x _ =>
    generalize hm : ({ l with
      framer := (l.framer.takeCell env.profile c l.counts).framer
      counts := (l.framer.takeCell env.profile c l.counts).counts } : Lane) = m
    have hmpass : m.OnPass i d := by
      rw [← hm]
      exact ⟨h.busy, h.active, h.room, h.queued⟩
    obtain ⟨hframe, -, hstate⟩ := Lane.anchor_frame env d x m
    obtain ⟨-, hqueue⟩ := Lane.anchor_queue env d x m
    have hbusy : (m.anchor env d x).state ≠ .idle := by
      obtain hstate | ⟨-, hstate⟩ := hstate <;> rw [hstate]
      · exact hmpass.busy
      · decide
    have hactive : (m.anchor env d x).active = some d := by
      rw [hframe]
      exact hmpass.active
    obtain hqueue | ⟨hon, -, hroom, hqueue⟩ := hqueue
    · exact ⟨hbusy, hactive, by rw [hqueue]; exact hmpass.room, by rw [hqueue]; exact hmpass.queued⟩
    · refine ⟨hbusy, hactive, ?_, ?_⟩
      · rw [hqueue, List.length_append]
        exact hroom
      · rw [hqueue]
        refine List.forall_mem_append.2 ⟨hmpass.queued, fun a ha => ?_⟩
        obtain rfl := List.mem_singleton.1 ha
        simp only [Descriptor.onTrack, Bool.and_eq_true, beq_iff_eq] at hon
        exact ⟨hnumber, by simp [FieldPair.attempt, hon.1, hon.2]⟩
  next => exact ⟨h.busy, h.active, h.room, h.queued⟩

theorem Lane.OnPass.closeInterval {env : LaneEnv} (hnumber : env.number = i) (h : l.OnPass i d) (ticks : Nat) :
    (l.closeInterval env d ticks).OnPass i d :=
  Lane.closeInterval_keeps (P := Lane.OnPass i d) (fun c _ h => h.takeCell hnumber c)
    (fun _ h => ⟨h.busy, h.active, h.room, h.queued⟩) (fun _ h => h.settleFraming)
    (fun _ _ h => ⟨h.busy, h.active, h.room, h.queued⟩) fun _ _ _ _ => ⟨h.busy, h.active, h.room, h.queued⟩

/-- What leaves descriptor and queue, and a lane that is not IDLE such, leaves it on its pass. -/
theorem Lane.OnPass.of_same {m : Lane} (h : l.OnPass i d) (hstate : m.state ≠ .idle) (hactive : m.active = l.active)
    (hqueue : m.queue = l.queue) : m.OnPass i d :=
  ⟨hstate, hactive.trans h.active, hqueue ▸ h.room, hqueue ▸ h.queued⟩

theorem Lane.endCapture_busy (l : Lane) (c : PassOutcome) : (l.endCapture c).state ≠ .idle := by
  obtain ⟨h, -⟩ | ⟨h, -⟩ := l.endCapture_state c <;> rw [h] <;> decide

theorem Lane.noIndex_idle (h : l.noIndex.state = .idle) : l.state = .idle := by
  obtain heq | ⟨-, heq⟩ | ⟨-, heq⟩ := l.noIndex_cases <;> rw [heq] at h
  · exact h
  · cases h
  · exact absurd h (l.endCapture_busy _)

theorem Lane.indexEdge_busy (p : Profile) (presets : Vector Preset 16) (d : Descriptor) (h : l.state ≠ .idle) :
    (l.indexEdge p presets d).state ≠ .idle := by
  obtain heq | ⟨k, heq⟩ := Lane.indexEdge_cases p presets d l <;> rw [heq]
  · exact h
  · obtain ⟨x, heq⟩ := Lane.acceptEdge_frame p presets d k l
    rw [heq]
    change ((l.edgeTimed p d k).countEdge d).state ≠ .idle
    obtain heq | ⟨-, heq⟩ | ⟨-, heq⟩ | ⟨-, heq⟩ | ⟨-, heq⟩ := Lane.countEdge_cases d (l.edgeTimed p d k) <;> rw [heq]
    · exact h
    · exact h
    · nofun
    · exact h
    · exact Lane.endCapture_busy _ _

end onPass

theorem State.queue_of_drained {s : State} {i : Fin 4} (h : s.drained i = true) : (s.lanes[i]).queue = [] := by
  simp only [State.drained, Bool.and_eq_true] at h
  simpa using h.1.2

/-- Every change of a lane keeps it consistent. -/
theorem Lane.Consistent.change {s : State} {i : Fin 4} {x : Lane} (hx : Lane.Change s i x)
    (h : (s.lanes[i]).Consistent i) : x.Consistent i := by
  have ⟨hidle, hroom, hqueued⟩ := h
  cases hx with
  | same | counted => exact h
  | abort discardQueue clearChain hstate =>
    refine ⟨nofun, ?_⟩
    cases discardQueue
    · exact ⟨hroom, hqueued⟩
    · exact ⟨Nat.zero_le 6, nofun⟩
  | popped a rest hqueue =>
    refine ⟨fun hstate => ?_, ?_, fun b hb => hqueued b (hqueue ▸ .tail a hb)⟩
    · obtain ⟨-, -, hempty⟩ := hidle hstate
      rw [hqueue] at hempty
      cases hempty
    · have hlength := congrArg List.length hqueue
      rw [List.length_cons] at hlength
      change rest.length ≤ 6
      omega
  | completed hdrained hchain =>
    have hempty := State.queue_of_drained hdrained
    exact ⟨fun _ => ⟨rfl, rfl, hempty⟩, hroom, fun b hb => absurd (hempty ▸ hb) List.not_mem_nil⟩
  | promoted hdrained d hchain =>
    have hempty := State.queue_of_drained hdrained
    exact ⟨nofun, hroom, fun b hb => absurd (hempty ▸ hb) List.not_mem_nil⟩
  | reset => exact ⟨fun _ => ⟨rfl, rfl, rfl⟩, Nat.zero_le 6, nofun⟩
  | effect hx =>
    cases hx with
    | schedule | elapse => exact h
    | chain d hd hstate => exact ⟨fun hs => absurd hs hstate, hroom, hqueued⟩
    | activate d hd hstate =>
      obtain ⟨-, -, hempty⟩ := hidle hstate
      exact ⟨nofun, hroom, fun b hb => absurd (hempty ▸ hb) List.not_mem_nil⟩
    | interval d k ticks hd => exact ((h.onPass hd).closeInterval rfl ticks).consistent
    | noIndex =>
      obtain ⟨hactive, hchain, hqueue, -⟩ := (s.lanes[i]).noIndex_keeps
      unfold Lane.Consistent
      rw [hactive, hchain, hqueue]
      exact ⟨fun hstate => hidle (Lane.noIndex_idle hstate), hroom, hqueued⟩
    | edge d hd =>
      obtain ⟨hactive, -, hqueue, -⟩ := Lane.indexEdge_frame (s.profileOf d.volume) s.presets d s.lanes[i]
      have hpass := h.onPass hd
      exact (hpass.of_same (Lane.indexEdge_busy _ _ _ hpass.busy) hactive hqueue).consistent

/-! ## The obligation -/

/-- R73, R82: a sector at the head of a queue lies in a volume that is named. -/
theorem State.Waits.names {s : State} (h : s.LanesConsistent) {k : SectorKey} (hk : s.Waits k) :
    s.Names k.track.volume := by
  obtain ⟨l, a, rest, hqueue, rfl⟩ := hk
  obtain ⟨-, -, hqueued⟩ := h l
  obtain ⟨-, d, hd, hkey⟩ := hqueued a (hqueue ▸ .head rest)
  exact .inr (.inr (.inl ⟨l, d, .inl hd, by rw [hkey]⟩))

/-- Whatever an effect leaves named was OPEN before. -/
theorem State.Effect.names_open {s t : State} (he : s.Effect t) (h : s.NamedVolumesOpen) (hlanes : s.LanesConsistent)
    {v : Fin 8} (hv : t.Names v) : (s.volumes[v]).isOpen = true := by
  have hopen := State.namedVolumesOpen_iff.1 h
  obtain hold | ⟨k, hwaits, rfl⟩ | ⟨d, hposted, rfl⟩ := he.names hv
  · exact hopen v hold
  · exact hopen _ (hwaits.names hlanes)
  · exact hposted.isOpen

theorem State.reset_not_names (s : State) (v : Fin 8) : ¬ s.resetBlocks.Names v := by
  rintro (⟨e, he, -⟩ | ⟨r, hr, -⟩ | ⟨i, d, hd, -⟩ | ⟨x, hx, -⟩)
  · cases he
  · cases hr
  · have hreset : s.resetBlocks.lanes[i] = (s.lanes[i]).afterReset := by fin_cases i <;> rfl
    rw [hreset] at hd
    obtain hd | hd := hd <;> cases hd
  · cases hx

/-- The volume of whatever an effect leaves named keeps its state and sector range: a FREE volume's names cannot come with
an opening, and a closing and a reset leave none. -/
theorem State.Effect.named_range {s t : State} (he : s.Effect t) (h : s.NamedVolumesOpen) (hlanes : s.LanesConsistent)
    {v : Fin 8} (hv : t.Names v) : (s.volumes[v]).SameRange t.volumes[v] := by
  obtain hsame | ⟨w, n, cylinders, heads, first, perTrack, -, hfree, rfl⟩ | ⟨w, hfree, rfl⟩ | rfl := he.volumeChange
  · exact hsame v
  · have hold := he.names_open h hlanes hv
    have hne : v ≠ w := by
      rintro rfl
      rw [hfree] at hold
      cases hold
    rw [State.setVolume_get_ne _ _ _ _ hne]
    exact ⟨rfl, rfl, rfl⟩
  · have hne : v ≠ w := by
      rintro rfl
      exact State.closeNow_not_names hfree hv
    have hkept := State.setVolume_get_ne
      { s with
        entries := s.entries.filter fun e => e.2.key.track.volume != w
        tracks := s.tracks.filter fun t => t.2.key.volume != w } w v
      { s.volumes[w] with isOpen := false, live := 0, settled := 0 } hne
    exact ⟨congrArg Volume.isOpen hkept, congrArg Volume.firstSector hkept, congrArg Volume.sectorsPerTrack hkept⟩
  · exact absurd hv (State.reset_not_names s v)

theorem State.NamedVolumesOpen.effect {s t : State} (he : s.Effect t) (h : s.NamedVolumesOpen)
    (hlanes : s.LanesConsistent) : t.NamedVolumesOpen :=
  State.namedVolumesOpen_iff.2 fun _ hv => (he.named_range h hlanes hv).1.trans (he.names_open h hlanes hv)

theorem State.LanesConsistent.effect {s t : State} (he : s.Effect t) (h : s.LanesConsistent) : t.LanesConsistent :=
  fun i => (h i).change (he.laneChange i)

/-- Settles O56: whatever an effect leaves named was OPEN before, and every change of a lane keeps it consistent. -/
theorem namedVolumesStayOpen : Obligations.NamedVolumesStayOpen := by
  intro s t hopen hlanes _ hstep
  exact step_keeps (P := fun s => s.NamedVolumesOpen ∧ s.LanesConsistent) (fun _ _ h => h)
    (fun _ _ he ⟨h, hl⟩ => ⟨h.effect he hl, hl.effect he⟩) hstep ⟨hopen, hlanes⟩

end Sys2Proof.Machine
end

section
/-! SUPPORT. The books of volumes, track records and sectors (R95, R98 to R101): what the counts say of the entries, and how each
event of the tables keeps them. -/

namespace Sys2Proof.Machine

/-! ## Sectors and tallies -/

/-- A sector with an entry, and the entry's status. -/
abbrev Sector := SectorKey × Status

def Sector.inVolume (v : Fin 8) (x : Sector) : Bool := x.1.track.volume == v

def Sector.inTrack (k : TrackKey) (x : Sector) : Bool := x.1.track == k

def Sector.isSettled (x : Sector) : Bool := x.2 == .settled

/-- The sum of the released counts of the track records of volume `v`. -/
def releasedOf (tracks : List Track) (v : Fin 8) : Nat := ((tracks.filter fun r => r.key.volume == v).map (·.released)).sum

/-- The number of done track records of volume `v`. -/
def doneOf (tracks : List Track) (v : Fin 8) : Nat := tracks.countP fun r => r.key.volume == v && r.done

theorem releasedOf_cons (r : Track) (tracks : List Track) (v : Fin 8) :
    releasedOf (r :: tracks) v = (if r.key.volume = v then r.released else 0) + releasedOf tracks v := by
  unfold releasedOf
  by_cases h : r.key.volume = v
  · simp [h]
  · simp [h]

theorem doneOf_cons (r : Track) (tracks : List Track) (v : Fin 8) :
    doneOf (r :: tracks) v = (if r.key.volume = v ∧ r.done = true then 1 else 0) + doneOf tracks v := by
  unfold doneOf
  rw [List.countP_cons, Nat.add_comm]
  simp

theorem releasedOf_perm {tracks tracks' : List Track} (h : tracks.Perm tracks') (v : Fin 8) :
    releasedOf tracks v = releasedOf tracks' v := ((h.filter _).map _).sum_eq

theorem doneOf_perm {tracks tracks' : List Track} (h : tracks.Perm tracks') (v : Fin 8) :
    doneOf tracks v = doneOf tracks' v := h.countP_eq _

/-! ## The books -/

/-- Live and settled counts are those of the sectors (R98, R100). -/
def countsOf (f : Sector → Bool) (sectors : List Sector) (live settled : Nat) : Prop :=
  live = sectors.countP f ∧ settled = sectors.countP fun x => f x && x.isSettled

theorem countsOf_perm {f : Sector → Bool} {sectors sectors' : List Sector} (h : sectors.Perm sectors') {live settled : Nat}
    (hc : countsOf f sectors live settled) : countsOf f sectors' live settled :=
  ⟨hc.1.trans (h.countP_eq _), hc.2.trans (h.countP_eq _)⟩

theorem countsOf_cons {f : Sector → Bool} {x : Sector} {sectors : List Sector} {live settled : Nat} :
    countsOf f (x :: sectors) live settled ↔
      live = sectors.countP f + (if f x then 1 else 0)
        ∧ settled = (sectors.countP fun x => f x && x.isSettled) + (if f x && x.isSettled then 1 else 0) := by
  unfold countsOf
  rw [List.countP_cons, List.countP_cons]

/-- A record whose sectors do not have `x` among them has the counts of the others. -/
theorem countsOf_cons_of_not {f : Sector → Bool} {x : Sector} (hx : f x = false) {sectors : List Sector}
    {live settled : Nat} : countsOf f (x :: sectors) live settled ↔ countsOf f sectors live settled := by
  rw [countsOf_cons, hx]
  rfl

/-- One more sector that is not SETTLED is one more live one. -/
theorem countsOf_cons_live {f : Sector → Bool} {x : Sector} (hx : f x = true) (hs : x.isSettled = false)
    {sectors : List Sector} {live settled : Nat} (hc : countsOf f sectors live settled) :
    countsOf f (x :: sectors) (live + 1) settled := by
  rw [countsOf_cons, hx, hs]
  exact ⟨congrArg (· + 1) hc.1, hc.2⟩

/-- What a volume record says of the sectors and track records (R95, R98). -/
structure Volume.Matches (x : Volume) (sectors : List Sector) (tracks : List Track) (v : Fin 8) : Prop where
  counts : countsOf (Sector.inVolume v) sectors x.live x.settled
  released : x.isOpen = true → x.released = releasedOf tracks v
  tracksDone : x.isOpen = true → x.tracksDone = doneOf tracks v

/-- What a track record of volume record `x` says of the sectors (R99 to R101). -/
structure Track.Matches (r : Track) (sectors : List Sector) (x : Volume) : Prop where
  counts : countsOf (Sector.inTrack r.key) sectors r.live r.settled
  released : r.released = ((List.range 64).filter fun k => r.releasedSet.getLsbD k).length
  below : ∀ k < 64, r.releasedSet.getLsbD k = true → k < x.sectorsPerTrack
  apart : ∀ y ∈ sectors, y.1.track = r.key → r.releasedSet.getLsbD (y.1.sector - x.firstSector) = false
  done_iff : r.done = true ↔ x.sectorsPerTrack ≤ r.settled + r.released

/-- Volumes, track records and sectors agree. -/
structure Books (volumes : Fin 8 → Volume) (tracks : List Track) (sectors : List Sector) : Prop where
  volume : ∀ v, (volumes v).Matches sectors tracks v
  recorded : ∀ y ∈ sectors, ∃ r ∈ tracks, r.key = y.1.track
  track : ∀ r ∈ tracks, r.Matches sectors (volumes r.key.volume)

/-- Two volume records agree in what the books read. -/
structure Volume.SameBooks (x y : Volume) : Prop where
  isOpen : y.isOpen = x.isOpen
  firstSector : y.firstSector = x.firstSector
  sectorsPerTrack : y.sectorsPerTrack = x.sectorsPerTrack
  live : y.live = x.live
  settled : y.settled = x.settled
  released : y.released = x.released
  tracksDone : y.tracksDone = x.tracksDone

section books
variable {volumes : Fin 8 → Volume} {tracks : List Track} {sectors : List Sector}

theorem Volume.Matches.congr {x y : Volume} {sectors' : List Sector} {tracks' : List Track} {v : Fin 8}
    (h : x.Matches sectors tracks v) (hxy : x.SameBooks y) (hs : sectors.Perm sectors') (ht : tracks.Perm tracks') :
    y.Matches sectors' tracks' v := by
  refine ⟨hxy.live ▸ hxy.settled ▸ countsOf_perm hs h.counts, fun ho => ?_, fun ho => ?_⟩
  · rw [hxy.released, h.released (hxy.isOpen ▸ ho), releasedOf_perm ht]
  · rw [hxy.tracksDone, h.tracksDone (hxy.isOpen ▸ ho), doneOf_perm ht]

theorem Track.Matches.congr {r : Track} {x y : Volume} {sectors' : List Sector} (h : r.Matches sectors x)
    (hfirst : y.firstSector = x.firstSector) (hper : y.sectorsPerTrack = x.sectorsPerTrack)
    (hs : sectors.Perm sectors') : r.Matches sectors' y := by
  refine ⟨countsOf_perm hs h.counts, h.released, hper ▸ h.below, fun z hz hk => ?_, hper ▸ h.done_iff⟩
  rw [hfirst]
  exact h.apart z (hs.mem_iff.2 hz) hk

/-- The books read the lists in no particular order. -/
theorem Books.congr (h : Books volumes tracks sectors) {volumes' : Fin 8 → Volume} {tracks' : List Track}
    {sectors' : List Sector} (hv : ∀ v, (volumes v).SameBooks (volumes' v)) (ht : tracks.Perm tracks')
    (hs : sectors.Perm sectors') : Books volumes' tracks' sectors' where
  volume v := (h.volume v).congr (hv v) hs ht
  recorded y hy := by
    obtain ⟨r, hr, hk⟩ := h.recorded y (hs.mem_iff.2 hy)
    exact ⟨r, ht.mem_iff.1 hr, hk⟩
  track r hr := (h.track r (ht.mem_iff.2 hr)).congr (hv _).firstSector (hv _).sectorsPerTrack hs

theorem Volume.SameBooks.refl (x : Volume) : x.SameBooks x := ⟨rfl, rfl, rfl, rfl, rfl, rfl, rfl⟩

theorem Books.reorder (h : Books volumes tracks sectors) {tracks' : List Track} {sectors' : List Sector}
    (ht : tracks.Perm tracks') (hs : sectors.Perm sectors') : Books volumes tracks' sectors' :=
  h.congr (fun _ => .refl _) ht hs

/-- R110: at a reset every count is 0, and the tables are empty. -/
theorem Books.reset : Books (fun _ => Volume.reset) [] [] where
  volume _ := ⟨⟨rfl, rfl⟩, nofun, nofun⟩
  recorded := nofun
  track := nofun

/-- R99: a fresh record of a track of an OPEN volume, which has no entry. -/
theorem Books.addTrack (h : Books volumes tracks sectors) {k : TrackKey} (hnew : ∀ r ∈ tracks, r.key ≠ k)
    (hper : 1 ≤ (volumes k.volume).sectorsPerTrack) : Books volumes (Track.fresh k :: tracks) sectors := by
  have hnone : ∀ y ∈ sectors, y.1.track ≠ k := by
    intro y hy hk
    obtain ⟨r, hr, hrk⟩ := h.recorded y hy
    exact hnew r hr (hrk.trans hk)
  refine ⟨fun v => ?_, fun y hy => ?_, fun r hr => ?_⟩
  · obtain ⟨hcounts, hreleased, hdone⟩ := h.volume v
    refine ⟨hcounts, fun ho => ?_, fun ho => ?_⟩
    · have hzero : (Track.fresh k).released = 0 := rfl
      rw [hreleased ho, releasedOf_cons, hzero, ite_self, Nat.zero_add]
    · have hundone : (Track.fresh k).done = false := rfl
      rw [hdone ho, doneOf_cons, hundone, if_neg (by simp), Nat.zero_add]
  · obtain ⟨r, hr, hrk⟩ := h.recorded y hy
    exact ⟨r, .tail _ hr, hrk⟩
  · obtain rfl | hr := List.mem_cons.1 hr
    · have hcount (f : Sector → Bool) : 0 = sectors.countP fun x => Sector.inTrack k x && f x :=
        (List.countP_eq_zero.2 fun y hy => by simp [Sector.inTrack, hnone y hy]).symm
      refine ⟨⟨?_, hcount _⟩, ?_, fun j _ hj => ?_, fun y hy hk => absurd hk (hnone y hy), ?_⟩
      · have hlive := hcount fun _ => true
        simp only [Bool.and_true] at hlive
        exact hlive
      · simp [Track.fresh]
      · simp [Track.fresh] at hj
      · simp only [Track.fresh, Bool.false_eq_true, false_iff]
        omega
    · exact h.track r hr

/-- R107: an allocation for a track with a record. -/
theorem Books.allocate {r : Track} {rest : List Track} (h : Books volumes (r :: rest) sectors) {k : SectorKey}
    (hkey : r.key = k.track) (hrest : ∀ q ∈ rest, q.key ≠ r.key)
    (hfree : r.releasedSet.getLsbD (k.sector - (volumes k.track.volume).firstSector) = false) :
    Books
      (Function.update volumes k.track.volume
        { volumes k.track.volume with live := (volumes k.track.volume).live + 1 })
      ({ r with live := r.live + 1 } :: rest) ((k, .opened) :: sectors) := by
  have hunsettled : Sector.isSettled (k, .opened) = false := rfl
  refine ⟨fun v => ?_, fun y hy => ?_, fun q hq => ?_⟩
  · obtain ⟨hcounts, hreleased, hdone⟩ := h.volume v
    have htallies : releasedOf ({ r with live := r.live + 1 } :: rest) v = releasedOf (r :: rest) v
        ∧ doneOf ({ r with live := r.live + 1 } :: rest) v = doneOf (r :: rest) v := by
      simp only [releasedOf_cons, doneOf_cons, and_self]
    by_cases hv : v = k.track.volume
    · subst hv
      rw [Function.update_self]
      exact ⟨countsOf_cons_live (by simp [Sector.inVolume]) hunsettled hcounts,
        fun ho => (hreleased ho).trans htallies.1.symm, fun ho => (hdone ho).trans htallies.2.symm⟩
    · rw [Function.update_of_ne hv]
      have hout : Sector.inVolume v (k, .opened) = false := by simpa [Sector.inVolume] using Ne.symm hv
      exact ⟨(countsOf_cons_of_not hout).2 hcounts, fun ho => (hreleased ho).trans htallies.1.symm,
        fun ho => (hdone ho).trans htallies.2.symm⟩
  · obtain rfl | hy := List.mem_cons.1 hy
    · exact ⟨_, .head _, hkey⟩
    · obtain ⟨q, hq, hqk⟩ := h.recorded y hy
      obtain rfl | hq := List.mem_cons.1 hq
      · exact ⟨_, .head _, hqk⟩
      · exact ⟨q, .tail _ hq, hqk⟩
  · have hrange (w : Fin 8) :
        (Function.update volumes k.track.volume
            { volumes k.track.volume with live := (volumes k.track.volume).live + 1 } w).firstSector =
          (volumes w).firstSector
        ∧ (Function.update volumes k.track.volume
            { volumes k.track.volume with live := (volumes k.track.volume).live + 1 } w).sectorsPerTrack =
          (volumes w).sectorsPerTrack := by
      by_cases hw : w = k.track.volume
      · subst hw
        rw [Function.update_self]
        exact ⟨rfl, rfl⟩
      · rw [Function.update_of_ne hw]
        exact ⟨rfl, rfl⟩
    obtain rfl | hq := List.mem_cons.1 hq
    · refine Track.Matches.congr (x := volumes r.key.volume) ?_ (hrange _).1 (hrange _).2 (.refl _)
      obtain ⟨hcounts, hreleased, hbelow, hapart, hdone⟩ := h.track r (.head _)
      refine ⟨countsOf_cons_live (by simp [Sector.inTrack, hkey]) hunsettled hcounts, hreleased, hbelow,
        fun y hy hyk => ?_, hdone⟩
      obtain rfl | hy := List.mem_cons.1 hy
      · rw [hkey]
        exact hfree
      · exact hapart y hy hyk
    · refine Track.Matches.congr (x := volumes q.key.volume) ?_ (hrange _).1 (hrange _).2 (.refl _)
      obtain ⟨hcounts, hreleased, hbelow, hapart, hdone⟩ := h.track q (.tail _ hq)
      have hne : k.track ≠ q.key := fun hk => hrest q hq (hk.symm.trans hkey.symm)
      refine ⟨(countsOf_cons_of_not (by simpa [Sector.inTrack] using hne)).2 hcounts, hreleased, hbelow,
        fun y hy hyk => ?_, hdone⟩
      obtain rfl | hy := List.mem_cons.1 hy
      · exact absurd hyk hne
      · exact hapart y hy hyk

/-! ## Track records stored with new counts -/

/-- A track record as it is stored: done once its settled and released counts have reached the sectors per track
(R101). -/
def Track.noted (r : Track) (x : Volume) : Track :=
  { r with done := r.done || decide (x.sectorsPerTrack ≤ r.settled + r.released) }

/-- A volume record as it is stored beside track record `r`: the track counted as done for the first time (R101). -/
def Volume.noted (x : Volume) (r : Track) : Volume :=
  { x with
    tracksDone := x.tracksDone + if r.done = false ∧ x.sectorsPerTrack ≤ r.settled + r.released then 1 else 0 }

/-- The done flag of a stored record: it is right when it was right and the sum has not fallen. -/
theorem Track.noted_done {r q : Track} {x : Volume} (hq : q.done = r.done)
    (hr : r.done = true ↔ x.sectorsPerTrack ≤ r.settled + r.released)
    (hsum : r.settled + r.released ≤ q.settled + q.released) :
    (q.noted x).done = true ↔ x.sectorsPerTrack ≤ (q.noted x).settled + (q.noted x).released := by
  change (q.done || decide (x.sectorsPerTrack ≤ q.settled + q.released)) = true ↔
    x.sectorsPerTrack ≤ q.settled + q.released
  rw [hq]
  cases hd : r.done with
  | false => simp
  | true =>
    have hreached := hr.1 hd
    simp only [Bool.true_or, true_iff]
    omega

/-- What a change of one sector and its track record leaves of the books, given the new counts of the volume and of the
record: all other volumes and records stand. -/
theorem Books.store {r q : Track} {rest : List Track} {x : Sector} {kept : List Sector} {after : List Sector} {w : Volume}
    (h : Books volumes (r :: rest) (x :: kept)) (hkey : r.key = x.1.track) (hq : q.key = r.key) (hdone : q.done = r.done)
    (hrest : ∀ p ∈ rest, p.key ≠ r.key) (hafter : after = kept ∨ ∃ status, after = (x.1, status) :: kept)
    (hrange : w.firstSector = (volumes x.1.track.volume).firstSector
      ∧ w.sectorsPerTrack = (volumes x.1.track.volume).sectorsPerTrack
      ∧ w.isOpen = (volumes x.1.track.volume).isOpen)
    (hvolume : countsOf (Sector.inVolume x.1.track.volume) after w.live w.settled)
    (hreleased : w.released + r.released = (volumes x.1.track.volume).released + q.released)
    (hdones : w.tracksDone = (volumes x.1.track.volume).tracksDone)
    (hsum : r.settled + r.released ≤ q.settled + q.released)
    (hcounts : countsOf (Sector.inTrack q.key) after q.live q.settled)
    (hset : q.released = ((List.range 64).filter fun k => q.releasedSet.getLsbD k).length)
    (hbelow : ∀ k < 64, q.releasedSet.getLsbD k = true → k < w.sectorsPerTrack)
    (hapart : ∀ y ∈ after, y.1.track = q.key → q.releasedSet.getLsbD (y.1.sector - w.firstSector) = false) :
    Books (Function.update volumes x.1.track.volume (w.noted q)) (q.noted w :: rest) after := by
  obtain ⟨hfirst, hper, hopen⟩ := hrange
  have hrdone := (h.track r (.head _)).done_iff
  rw [hkey, ← hper] at hrdone
  have hother {f : Sector → Bool} (hf : f x = false) (hf' : ∀ status, f (x.1, status) = false) {live settled : Nat}
      (hc : countsOf f (x :: kept) live settled) : countsOf f after live settled := by
    have hc := (countsOf_cons_of_not hf).1 hc
    obtain rfl | ⟨status, rfl⟩ := hafter
    · exact hc
    · exact (countsOf_cons_of_not (hf' status)).2 hc
  have hsame : ∀ y ∈ after, ∃ z ∈ x :: kept, z.1 = y.1 := by
    intro y hy
    obtain rfl | ⟨status, rfl⟩ := hafter
    · exact ⟨y, .tail _ hy, rfl⟩
    · obtain rfl | hy := List.mem_cons.1 hy
      · exact ⟨x, .head _, rfl⟩
      · exact ⟨y, .tail _ hy, rfl⟩
  refine ⟨fun v => ?_, fun y hy => ?_, fun p hp => ?_⟩
  · obtain ⟨hold, hoRel, hoDone⟩ := h.volume v
    rw [releasedOf_cons] at hoRel
    rw [doneOf_cons] at hoDone
    by_cases hv : v = x.1.track.volume
    · subst hv
      rw [Function.update_self]
      have hvol : r.key.volume = x.1.track.volume := by rw [hkey]
      have hqvol : (q.noted w).key.volume = x.1.track.volume := by
        change q.key.volume = _
        rw [hq, hkey]
      refine ⟨hvolume, fun ho => ?_, fun ho => ?_⟩
      · have hoRel := hoRel (hopen ▸ ho)
        rw [if_pos hvol] at hoRel
        rw [releasedOf_cons, if_pos hqvol]
        change w.released = q.released + _
        omega
      · have hoDone := hoDone (hopen ▸ ho)
        rw [doneOf_cons]
        change w.tracksDone + (if q.done = false ∧ w.sectorsPerTrack ≤ q.settled + q.released then 1 else 0) =
          (if (q.noted w).key.volume = x.1.track.volume
            ∧ (q.done || decide (w.sectorsPerTrack ≤ q.settled + q.released)) = true then 1 else 0) + doneOf rest _
        rw [hdones, hoDone, hqvol, hvol, hdone]
        cases hd : r.done with
        | true => simp
        | false => simp [Nat.add_comm]
    · rw [Function.update_of_ne hv]
      have hrv : r.key.volume ≠ v := by
        rw [hkey]
        exact Ne.symm hv
      have hqv : (q.noted w).key.volume ≠ v := by
        change q.key.volume ≠ v
        rw [hq]
        exact hrv
      refine ⟨hother ?_ (fun _ => ?_) hold, fun ho => ?_, fun ho => ?_⟩
      · simpa [Sector.inVolume] using Ne.symm hv
      · simpa [Sector.inVolume] using Ne.symm hv
      · rw [hoRel ho, releasedOf_cons, if_neg hrv, if_neg hqv]
      · rw [hoDone ho, doneOf_cons, if_neg fun h => hrv h.1, if_neg fun h => hqv h.1]
  · obtain ⟨z, hz, hzy⟩ := hsame y hy
    obtain ⟨p, hp, hpk⟩ := h.recorded z hz
    rw [hzy] at hpk
    obtain rfl | hp := List.mem_cons.1 hp
    · exact ⟨_, .head _, hq.trans hpk⟩
    · exact ⟨p, .tail _ hp, hpk⟩
  · have hstored (u : Fin 8) :
        (Function.update volumes x.1.track.volume (w.noted q) u).firstSector = (volumes u).firstSector
          ∧ (Function.update volumes x.1.track.volume (w.noted q) u).sectorsPerTrack =
            (volumes u).sectorsPerTrack := by
      by_cases hu : u = x.1.track.volume
      · subst hu
        rw [Function.update_self]
        exact ⟨hfirst, hper⟩
      · rw [Function.update_of_ne hu]
        exact ⟨rfl, rfl⟩
    obtain rfl | hp := List.mem_cons.1 hp
    · have hqvol : (q.noted w).key.volume = x.1.track.volume := by
        change q.key.volume = _
        rw [hq, hkey]
      rw [hqvol, Function.update_self]
      exact ⟨hcounts, hset, hbelow, hapart, Track.noted_done hdone hrdone hsum⟩
    · refine Track.Matches.congr (x := volumes p.key.volume) ?_ (hstored _).1 (hstored _).2 (.refl _)
      obtain ⟨hpc, hpr, hpb, hpa, hpd⟩ := h.track p (.tail _ hp)
      have hne : x.1.track ≠ p.key := fun hk => hrest p hp (hk.symm.trans hkey.symm)
      refine ⟨hother ?_ (fun _ => ?_) hpc, hpr, hpb, fun y hy hyk => ?_, hpd⟩
      · simpa [Sector.inTrack] using hne
      · simpa [Sector.inTrack] using hne
      · obtain ⟨z, hz, hzy⟩ := hsame y hy
        rw [← hzy] at hyk ⊢
        exact hpa z hz hyk

/-- R154: an entry enters SETTLED. -/
theorem Books.settle {r : Track} {rest : List Track} {k : SectorKey} {status : Status} {kept : List Sector}
    (h : Books volumes (r :: rest) ((k, status) :: kept)) (hkey : r.key = k.track)
    (hrest : ∀ p ∈ rest, p.key ≠ r.key) (hold : status ≠ .settled) :
    Books
      (Function.update volumes k.track.volume
        (({ volumes k.track.volume with settled := (volumes k.track.volume).settled + 1 } : Volume).noted
          { r with settled := r.settled + 1 }))
      (({ r with settled := r.settled + 1 } : Track).noted
        { volumes k.track.volume with settled := (volumes k.track.volume).settled + 1 } :: rest)
      ((k, .settled) :: kept) := by
  have hwas : Sector.isSettled (k, status) = false := by simpa [Sector.isSettled] using hold
  have his : Sector.isSettled (k, .settled) = true := rfl
  obtain ⟨hcounts, hset, hbelow, hapart, -⟩ := h.track r (.head _)
  have hvolume := (h.volume k.track.volume).counts
  refine Books.store (x := (k, status)) (r := r) h hkey rfl rfl hrest (.inr ⟨.settled, rfl⟩) ⟨rfl, rfl, rfl⟩ ?_ rfl rfl
    (by change r.settled + r.released ≤ r.settled + 1 + r.released; omega) ?_ hset (hkey ▸ hbelow) ?_
  · rw [countsOf_cons] at hvolume ⊢
    simpa [Sector.inVolume, hwas, his] using hvolume
  · rw [countsOf_cons] at hcounts ⊢
    simpa [Sector.inTrack, hkey, hwas, his] using hcounts
  · intro y hy hyk
    have hyk : y.1.track = r.key := hyk
    have hapart : ∀ z ∈ (k, status) :: kept, z.1.track = r.key →
        r.releasedSet.getLsbD (z.1.sector - (volumes k.track.volume).firstSector) = false := hkey ▸ hapart
    obtain rfl | hy := List.mem_cons.1 hy
    · exact hapart (k, status) (.head _) hyk
    · exact hapart y (.tail _ hy) hyk

/-- R155: a change between statuses other than SETTLED is in no count. -/
theorem Books.restate {k : SectorKey} {old new : Status} {kept : List Sector} (h : Books volumes tracks ((k, old) :: kept))
    (hold : old ≠ .settled) (hnew : new ≠ .settled) : Books volumes tracks ((k, new) :: kept) := by
  have hcounts {f : SectorKey → Bool} {live settled : Nat}
      (hc : countsOf (fun x => f x.1) ((k, old) :: kept) live settled) :
      countsOf (fun x => f x.1) ((k, new) :: kept) live settled := by
    have hwas : Sector.isSettled (k, old) = false := by simpa [Sector.isSettled] using hold
    have his : Sector.isSettled (k, new) = false := by simpa [Sector.isSettled] using hnew
    rw [countsOf_cons] at hc ⊢
    simpa [hwas, his] using hc
  refine ⟨fun v => ?_, fun y hy => ?_, fun r hr => ?_⟩
  · obtain ⟨hc, hreleased, hdone⟩ := h.volume v
    exact ⟨hcounts (f := fun x => x.track.volume == v) hc, hreleased, hdone⟩
  · obtain rfl | hy := List.mem_cons.1 hy
    · exact h.recorded (k, old) (.head _)
    · exact h.recorded y (.tail _ hy)
  · obtain ⟨hc, hset, hbelow, hapart, hdone⟩ := h.track r hr
    refine ⟨hcounts (f := fun x => x.track == r.key) hc, hset, hbelow, fun y hy hyk => ?_, hdone⟩
    obtain rfl | hy := List.mem_cons.1 hy
    · exact hapart (k, old) (.head _) hyk
    · exact hapart y (.tail _ hy) hyk

/-! ## Release -/

theorem getLsbD_setBit (x : BitVec 64) (off k : Nat) (hoff : off < 64) :
    (x ||| (1#64 <<< off)).getLsbD k = (x.getLsbD k || decide (k = off)) := by
  simp only [BitVec.getLsbD_or, BitVec.getLsbD_shiftLeft, BitVec.getLsbD_one]
  by_cases hk : k = off
  · subst hk
    simp [hoff]
  · have : k - off = 0 → k < off := by omega
    by_cases hlt : k < off <;> simp [hk, hlt]
    omega

/-- R163: a bit set for the first time is one more released sector. -/
theorem released_setBit {x : BitVec 64} {off : Nat} (hoff : off < 64) (hclear : x.getLsbD off = false) :
    ((List.range 64).filter fun k => (x ||| (1#64 <<< off)).getLsbD k).length =
      ((List.range 64).filter fun k => x.getLsbD k).length + 1 := by
  have hsplit : ∀ k ∈ List.range 64, ((x ||| (1#64 <<< off)).getLsbD k = true) ↔
      (x.getLsbD k = true ∨ k = off) := fun k _ => by simp [getLsbD_setBit x off k hoff]
  have hcount : ((List.range 64).filter fun k => (x ||| (1#64 <<< off)).getLsbD k).Perm
      (off :: (List.range 64).filter fun k => x.getLsbD k) := by
    refine (List.perm_ext_iff_of_nodup (List.nodup_range.filter _) (List.nodup_cons.2 ⟨?_, List.nodup_range.filter _⟩)).2
      fun k => ?_
    · simp [hclear]
    · rw [List.mem_filter, List.mem_cons, List.mem_filter]
      constructor
      · rintro ⟨hk, hbit⟩
        obtain h | h := (hsplit k hk).1 hbit
        · exact .inr ⟨hk, h⟩
        · exact .inl h
      · rintro (rfl | ⟨hk, hbit⟩)
        · exact ⟨List.mem_range.2 hoff, (hsplit k (List.mem_range.2 hoff)).2 (.inr rfl)⟩
        · exact ⟨hk, (hsplit k hk).2 (.inl hbit)⟩
  rw [hcount.length_eq, List.length_cons]

/-- R163, R164: the release of an entry in its volume's range. -/
theorem Books.release {r : Track} {rest : List Track} {k : SectorKey} {status : Status} {kept : List Sector}
    (h : Books volumes (r :: rest) ((k, status) :: kept)) (hkey : r.key = k.track)
    (hrest : ∀ p ∈ rest, p.key ≠ r.key) (hkept : ∀ y ∈ kept, y.1 ≠ k)
    (hholds : ∀ y ∈ (k, status) :: kept, (volumes y.1.track.volume).Holds y.1.sector)
    (hper : (volumes k.track.volume).sectorsPerTrack ≤ 64) :
    Books
      (Function.update volumes k.track.volume
        (((volumes k.track.volume).release (status == .settled)).noted
          (r.release (k.sector - (volumes k.track.volume).firstSector) (status == .settled))))
      ((r.release (k.sector - (volumes k.track.volume).firstSector) (status == .settled)).noted
        ((volumes k.track.volume).release (status == .settled)) :: rest)
      kept := by
  obtain ⟨hlow, hhigh⟩ := hholds _ (.head _)
  have hlow : (volumes k.track.volume).firstSector ≤ k.sector := hlow
  have hhigh : k.sector < (volumes k.track.volume).firstSector + (volumes k.track.volume).sectorsPerTrack := hhigh
  generalize hoff : k.sector - (volumes k.track.volume).firstSector = off
  have hoff64 : off < 64 := by omega
  obtain ⟨hcounts, hset, hbelow, hapart, -⟩ := h.track r (.head _)
  have hbelow : ∀ j < 64, r.releasedSet.getLsbD j = true → j < (volumes k.track.volume).sectorsPerTrack := hkey ▸ hbelow
  have hapart : ∀ z ∈ (k, status) :: kept, z.1.track = r.key →
      r.releasedSet.getLsbD (z.1.sector - (volumes k.track.volume).firstSector) = false := hkey ▸ hapart
  have hclear : r.releasedSet.getLsbD off = false := hoff ▸ hapart _ (.head _) hkey.symm
  have hvolume := (h.volume k.track.volume).counts
  have hless {f : Sector → Bool} (hf : f (k, status) = true) {live settled : Nat}
      (hc : countsOf f ((k, status) :: kept) live settled) :
      countsOf f kept (live - 1) (if (status == .settled) = true then settled - 1 else settled) := by
    rw [countsOf_cons] at hc
    obtain ⟨hlive, hsettled⟩ := hc
    refine ⟨by rw [hlive, hf]; rfl, ?_⟩
    rw [hsettled, hf]
    cases hs : status == .settled <;> simp [Sector.isSettled, hs]
  refine Books.store (x := (k, status)) (r := r) h hkey rfl rfl hrest (.inl rfl) ⟨rfl, rfl, rfl⟩ (hless ?_ hvolume) ?_ rfl
    ?_ (hless ?_ hcounts) ?_ ?_ ?_
  · simp [Sector.inVolume]
  · change (volumes k.track.volume).released + 1 + r.released = (volumes k.track.volume).released + (r.released + 1)
    omega
  · change r.settled + r.released ≤
      (if (status == .settled) = true then r.settled - 1 else r.settled) + (r.released + 1)
    split <;> omega
  · simp [Sector.inTrack, hkey, Track.release]
  · change r.released + 1 = _
    rw [hset]
    exact (released_setBit hoff64 hclear).symm
  · intro j hj hbit
    have hbit : (r.releasedSet ||| (1#64 <<< off)).getLsbD j = true := hbit
    rw [getLsbD_setBit _ _ _ hoff64, Bool.or_eq_true, decide_eq_true_eq] at hbit
    change j < (volumes k.track.volume).sectorsPerTrack
    obtain hbit | rfl := hbit
    · exact hbelow j hj hbit
    · omega
  · intro y hy hyk
    have hyk : y.1.track = r.key := hyk
    change (r.releasedSet ||| (1#64 <<< off)).getLsbD (y.1.sector - (volumes k.track.volume).firstSector) = false
    rw [getLsbD_setBit _ _ _ hoff64, hapart y (.tail _ hy) hyk, Bool.false_or, decide_eq_false_iff_not]
    obtain ⟨hylow, -⟩ := hholds y (.tail _ hy)
    have hytrack : y.1.track = k.track := hyk.trans hkey
    have hylow : (volumes k.track.volume).firstSector ≤ y.1.sector := hytrack ▸ hylow
    intro heq
    refine hkept y hy ?_
    have hsector : y.1.sector = k.sector := by omega
    obtain ⟨⟨ytrack, ysector⟩, ystatus⟩ := y
    obtain ⟨ktrack, ksector⟩ := k
    exact congrArg₂ SectorKey.mk hytrack hsector

/-! ## Opening and closing -/

/-- R96: a volume that nothing names is opened with every count 0. -/
theorem Books.openVolume (h : Books volumes tracks sectors) {v : Fin 8} {x : Volume}
    (hsectors : ∀ y ∈ sectors, y.1.track.volume ≠ v) (htracks : ∀ r ∈ tracks, r.key.volume ≠ v)
    (hzero : x.live = 0 ∧ x.settled = 0 ∧ x.released = 0 ∧ x.tracksDone = 0) :
    Books (Function.update volumes v x) tracks sectors := by
  obtain ⟨hlive, hsettled, hreleased, hdone⟩ := hzero
  refine ⟨fun w => ?_, h.recorded, fun r hr => ?_⟩
  · by_cases hw : w = v
    · subst hw
      rw [Function.update_self]
      refine ⟨⟨?_, ?_⟩, fun _ => ?_, fun _ => ?_⟩
      · rw [hlive]
        exact (List.countP_eq_zero.2 fun y hy => by simp [Sector.inVolume, hsectors y hy]).symm
      · rw [hsettled]
        exact (List.countP_eq_zero.2 fun y hy => by simp [Sector.inVolume, hsectors y hy]).symm
      · rw [hreleased, releasedOf, List.filter_eq_nil_iff.2 fun r hr => by simp [htracks r hr]]
        rfl
      · rw [hdone]
        exact (List.countP_eq_zero.2 fun r hr => by simp [htracks r hr]).symm
    · rw [Function.update_of_ne hw]
      exact h.volume w
  · rw [Function.update_of_ne (htracks r hr)]
    exact h.track r hr

/-- Counts of sectors outside volume `v` stand when its sectors go. -/
theorem countsOf_filter {f : Sector → Bool} {v : Fin 8} (hf : ∀ y, f y = true → y.1.track.volume ≠ v)
    {live settled : Nat} (hc : countsOf f sectors live settled) :
    countsOf f (sectors.filter fun y => y.1.track.volume != v) live settled := by
  have hpred (g : Sector → Bool) :
      (sectors.filter fun y => y.1.track.volume != v).countP (fun y => f y && g y) =
        sectors.countP fun y => f y && g y := by
    rw [List.countP_filter]
    refine List.countP_congr fun y _ => ?_
    simp only [Bool.and_eq_true, bne_iff_ne]
    exact ⟨fun hy => hy.1, fun hy => ⟨hy, hf y hy.1⟩⟩
  refine ⟨?_, ?_⟩
  · rw [hc.1]
    simpa using (hpred fun _ => true).symm
  · rw [hc.2]
    exact (hpred Sector.isSettled).symm

/-- R97: a volume is closed, and its entries and track records are freed. -/
theorem Books.closeVolume (h : Books volumes tracks sectors) (v : Fin 8) {x : Volume}
    (hzero : x.isOpen = false ∧ x.live = 0 ∧ x.settled = 0) :
    Books (Function.update volumes v x) (tracks.filter fun r => r.key.volume != v)
      (sectors.filter fun y => y.1.track.volume != v) := by
  obtain ⟨hopen, hlive, hsettled⟩ := hzero
  refine ⟨fun w => ?_, fun y hy => ?_, fun r hr => ?_⟩
  · by_cases hw : w = v
    · subst hw
      rw [Function.update_self]
      have hgone : ∀ y ∈ sectors.filter fun y => y.1.track.volume != w, Sector.inVolume w y = false := by
        intro y hy
        simpa [Sector.inVolume] using (List.mem_filter.1 hy).2
      refine ⟨⟨?_, ?_⟩, fun ho => absurd (hopen.symm.trans ho) nofun, fun ho => absurd (hopen.symm.trans ho) nofun⟩
      · rw [hlive]
        exact (List.countP_eq_zero.2 fun y hy => by simp [hgone y hy]).symm
      · rw [hsettled]
        exact (List.countP_eq_zero.2 fun y hy => by simp [hgone y hy]).symm
    · rw [Function.update_of_ne hw]
      obtain ⟨hcounts, hreleased, hdone⟩ := h.volume w
      refine ⟨countsOf_filter (fun y hy => ?_) hcounts, fun ho => ?_, fun ho => ?_⟩
      · have hy : y.1.track.volume = w := by simpa [Sector.inVolume] using hy
        rw [hy]
        exact hw
      · rw [hreleased ho, releasedOf, releasedOf, List.filter_filter]
        refine congrArg (fun l => (l.map Track.released).sum) (List.filter_congr fun r _ => ?_)
        by_cases hr : r.key.volume = w <;> simp [hr, hw]
      · rw [hdone ho, doneOf, doneOf, List.countP_filter]
        refine List.countP_congr fun r _ => ?_
        by_cases hr : r.key.volume = w <;> simp [hr, hw]
  · obtain ⟨hmem, hv⟩ := List.mem_filter.1 hy
    obtain ⟨r, hr, hrk⟩ := h.recorded y hmem
    exact ⟨r, List.mem_filter.2 ⟨hr, by rw [hrk]; exact hv⟩, hrk⟩
  · obtain ⟨hmem, hv⟩ := List.mem_filter.1 hr
    have hne : r.key.volume ≠ v := by simpa using hv
    rw [Function.update_of_ne hne]
    obtain ⟨hcounts, hset, hbelow, hapart, hdone⟩ := h.track r hmem
    refine ⟨countsOf_filter (fun y hy => ?_) hcounts, hset, hbelow, fun y hy => hapart y (List.mem_filter.1 hy).1, hdone⟩
    have hy : y.1.track = r.key := by simpa [Sector.inTrack] using hy
    rw [hy]
    exact hne

end books

end Sys2Proof.Machine
end

section
/-! SUPPORT. The state's books (R95, R98 to R101): how each effect changes entries, track records and volumes, the bound on
settled and released sectors, and the obligation they settle. -/

namespace Sys2Proof.Machine

/-! ## A table and one of its records -/

section tables
variable {α : Type} {b : Nat} {t : Table α}

theorem Table.perm_of_get {k : Nat} {w : α} (h : Table.get t k = some w) : t.Perm ((k, w) :: Table.drop t k) := by
  induction t with
  | nil => cases h
  | cons x t ih =>
    obtain ⟨j, u⟩ := x
    rw [Table.get_cons] at h
    rw [Table.drop]
    split at h
    next hj =>
      cases h
      subst hj
      rw [if_pos rfl]
    next hj =>
      rw [if_neg hj]
      exact ((ih h).cons _).trans (.swap _ _ _)

theorem Table.put_perm_old (hw : Table.wf b t = true) {k : Nat} {w : α} (h : Table.get t k = some w) (v : α) :
    (Table.put t k v).Perm ((k, v) :: Table.drop t k) := by
  have hp := ((Table.wf_iff b t).1 hw).2
  clear hw
  induction t with
  | nil => cases h
  | cons x t ih =>
    obtain ⟨j, u⟩ := x
    rw [List.pairwise_cons] at hp
    rw [Table.get_cons] at h
    rw [Table.put, Table.drop]
    split at h
    next hj =>
      subst hj
      rw [if_neg (Nat.lt_irrefl _), if_pos rfl, if_pos rfl]
    next hj =>
      have hlt : j < k := hp.1 _ (Table.mem_of_get h)
      rw [if_neg (by omega), if_neg (Ne.symm hj), if_neg hj]
      exact ((ih h hp.2).cons _).trans (.swap _ _ _)

end tables

/-! ## The state's books -/

/-- The sectors with an entry, with their statuses. -/
def State.sectors (s : State) : List Sector := s.entries.map fun e => (e.2.key, e.2.status)

/-- The allocated track records. -/
def State.trackList (s : State) : List Track := s.tracks.map fun t => t.2

/-- Volume record `v`. -/
def State.vol (s : State) (v : Fin 8) : Volume := s.volumes[v]

/-- Volumes, track records and entries agree (R95, R98 to R101). -/
def State.Balanced (s : State) : Prop := Books s.vol s.trackList s.sectors

section balanced
variable {s t : State}

theorem State.setVolume_vol (s : State) (v : Fin 8) (x : Volume) : (s.setVolume v x).vol = Function.update s.vol v x := by
  funext w
  by_cases hw : w = v
  · subst hw
    rw [Function.update_self]
    exact State.setVolume_get s w x
  · rw [Function.update_of_ne hw]
    exact State.setVolume_get_ne s v w x hw

theorem State.mem_sectors {y : Sector} : y ∈ s.sectors ↔ ∃ e ∈ s.entries, (e.2.key, e.2.status) = y := List.mem_map

theorem State.mem_trackList {r : Track} : r ∈ s.trackList ↔ ∃ t ∈ s.tracks, t.2 = r := List.mem_map

theorem State.KeysDistinct.sectors (h : s.KeysDistinct) : (s.sectors.map Prod.fst).Nodup := by
  have hkeys := h.1
  unfold State.sectors
  rwa [List.map_map]

theorem State.KeysDistinct.trackList (h : s.KeysDistinct) : (s.trackList.map Track.key).Nodup := by
  have hkeys := h.2
  unfold State.trackList
  rwa [List.map_map]

/-- One entry beside the others. -/
theorem State.sectors_of_get {i : Nat} {e : Entry} (h : Table.get s.entries i = some e) :
    s.sectors.Perm ((e.key, e.status) :: (Table.drop s.entries i).map fun x => (x.2.key, x.2.status)) :=
  (Table.perm_of_get h).map _

theorem State.sectors_setEntry (hw : s.TablesCanonical) {i : Nat} {e : Entry} (h : Table.get s.entries i = some e)
    (e' : Entry) :
    (s.setEntry i e').sectors.Perm
      ((e'.key, e'.status) :: (Table.drop s.entries i).map fun x => (x.2.key, x.2.status)) :=
  (Table.put_perm_old hw.1 h e').map _

theorem State.trackList_of_get {j : Nat} {r : Track} (h : Table.get s.tracks j = some r) :
    s.trackList.Perm (r :: (Table.drop s.tracks j).map fun x => x.2) := (Table.perm_of_get h).map _

theorem State.trackList_setTrack (hw : Table.wf 512 s.tracks = true) {j : Nat} {r : Track} (h : Table.get s.tracks j = some r)
    (r' : Track) : (s.setTrack j r').trackList.Perm (r' :: (Table.drop s.tracks j).map fun x => x.2) :=
  (Table.put_perm_old hw h r').map _

/-- The other track records have other keys. -/
theorem State.KeysDistinct.others (h : s.KeysDistinct) {j : Nat} {r : Track} (hget : Table.get s.tracks j = some r) :
    ∀ p ∈ (Table.drop s.tracks j).map fun x => x.2, p.key ≠ r.key := by
  have hnodup := h.trackList
  rw [((State.trackList_of_get hget).map _).nodup_iff, List.map_cons, List.nodup_cons] at hnodup
  intro p hp hk
  exact hnodup.1 (List.mem_map.2 ⟨p, hp, hk⟩)

/-- The other entries have other keys. -/
theorem State.KeysDistinct.otherSectors (h : s.KeysDistinct) {i : Nat} {e : Entry} (hget : Table.get s.entries i = some e) :
    ∀ y ∈ (Table.drop s.entries i).map fun x => (x.2.key, x.2.status), y.1 ≠ e.key := by
  have hnodup := h.sectors
  rw [((State.sectors_of_get hget).map _).nodup_iff, List.map_cons, List.nodup_cons] at hnodup
  intro y hy hk
  exact hnodup.1 (List.mem_map.2 ⟨y, hy, hk⟩)

/-- What leaves track records, sectors and the volumes' counts leaves the books. -/
theorem State.Balanced.of_same (h : s.Balanced) (hv : ∀ v, (s.vol v).SameBooks (t.vol v)) (ht : t.tracks = s.tracks)
    (hs : t.sectors = s.sectors) : t.Balanced := by
  have hlist : s.trackList = t.trackList := by rw [State.trackList, State.trackList, ht]
  exact Books.congr h hv (hlist ▸ .refl _) (hs ▸ .refl _)

theorem State.Balanced.setVolume (h : s.Balanced) (v : Fin 8) {x : Volume} (hx : (s.vol v).SameBooks x) :
    (s.setVolume v x).Balanced := by
  refine h.of_same (fun w => ?_) rfl rfl
  rw [State.setVolume_vol]
  by_cases hw : w = v
  · subst hw
    rw [Function.update_self]
    exact hx
  · rw [Function.update_of_ne hw]
    exact .refl _

theorem State.Balanced.setEntry (h : s.Balanced) (hw : s.TablesCanonical) {i : Nat} {e e' : Entry}
    (hget : Table.get s.entries i = some e) (hsame : (e'.key, e'.status) = (e.key, e.status)) :
    (s.setEntry i e').Balanced :=
  h.of_same (fun _ => .refl _) rfl (Table.map_put_old hw.1 hget (f := fun x => (x.key, x.status)) hsame)

/-- A track record stored with new counts, and the volume with it (R101). -/
theorem State.noteTrack_books (hw : Table.wf 512 s.tracks = true) {j : Nat} {r : Track} (hget : Table.get s.tracks j = some r)
    (q : Track) :
    (s.noteTrack j q).vol = Function.update s.vol q.key.volume ((s.vol q.key.volume).noted q)
      ∧ (s.noteTrack j q).trackList.Perm
          (q.noted (s.vol q.key.volume) :: (Table.drop s.tracks j).map fun x => x.2)
      ∧ (s.noteTrack j q).sectors = s.sectors := by
  obtain ⟨heq, hsame⟩ | ⟨hopen, hreached, heq⟩ := State.noteTrack_cases s j q <;> rw [heq]
  · have hsame : q.done = true ∨ q.settled + q.released < (s.vol q.key.volume).sectorsPerTrack := hsame
    have hnot : ¬ (q.done = false ∧ (s.vol q.key.volume).sectorsPerTrack ≤ q.settled + q.released) := by
      rintro ⟨hd, hle⟩
      obtain h | h := hsame
      · rw [hd] at h
        cases h
      · omega
    have hvol : (s.vol q.key.volume).noted q = s.vol q.key.volume := by
      unfold Volume.noted
      rw [if_neg hnot]
      rfl
    have htrack : q.noted (s.vol q.key.volume) = q := by
      have hd : (q.done || decide ((s.vol q.key.volume).sectorsPerTrack ≤ q.settled + q.released)) = q.done := by
        cases hq : q.done with
        | true => rfl
        | false => simpa [hq] using hnot
      unfold Track.noted
      rw [hd]
    rw [hvol, Function.update_eq_self, htrack]
    exact ⟨rfl, State.trackList_setTrack hw hget q, rfl⟩
  · have hreached : (s.vol q.key.volume).sectorsPerTrack ≤ q.settled + q.released := hreached
    have hvol : (s.vol q.key.volume).noted q =
        { s.vol q.key.volume with tracksDone := (s.vol q.key.volume).tracksDone + 1 } := by
      unfold Volume.noted
      rw [if_pos ⟨hopen, hreached⟩]
    have htrack : q.noted (s.vol q.key.volume) = { q with done := true } := by
      unfold Track.noted
      rw [decide_eq_true hreached, Bool.or_true]
    rw [hvol, htrack]
    exact ⟨State.setVolume_vol (s.setTrack j { q with done := true }) q.key.volume _,
      State.trackList_setTrack hw hget { q with done := true }, rfl⟩

/-- The books after a track record is stored, from those that the volume and the record as stored have. -/
theorem State.noteTrack_balanced (hw : Table.wf 512 s.tracks = true) {j : Nat} {r : Track}
    (hget : Table.get s.tracks j = some r) {q : Track} {volumes : Fin 8 → Volume} {v : Fin 8} {x : Volume}
    (hq : q.key.volume = v) (hvol : s.vol = Function.update volumes v x)
    (hbooks : Books (Function.update volumes v (x.noted q)) (q.noted x :: (Table.drop s.tracks j).map fun y => y.2)
      s.sectors) : (s.noteTrack j q).Balanced := by
  obtain ⟨hvol', htracks, hsectors⟩ := State.noteTrack_books hw hget q
  rw [hq, hvol, Function.update_self, Function.update_idem] at hvol'
  rw [hq, hvol, Function.update_self] at htracks
  unfold State.Balanced
  rw [hvol', hsectors]
  exact hbooks.reorder htracks.symm (.refl _)

/-- R99: every entry's track record is found. -/
theorem State.Balanced.findTrack (h : s.Balanced) (hw : s.TablesCanonical) {i : Nat} {e : Entry}
    (hget : Table.get s.entries i = some e) :
    ∃ j r, s.findTrack e.key.track = some (j, r) ∧ r.key = e.key.track ∧ Table.get s.tracks j = some r := by
  cases hf : s.findTrack e.key.track with
  | some x =>
    obtain ⟨j, r⟩ := x
    exact ⟨j, r, rfl, (State.findTrack_some hf).1, State.get_of_findTrack hw hf⟩
  | none =>
    obtain ⟨r, hr, hk⟩ := h.recorded (e.key, e.status) (State.mem_sectors.2 ⟨_, Table.mem_of_get hget, rfl⟩)
    obtain ⟨x, hx, rfl⟩ := State.mem_trackList.1 hr
    exact absurd hk (State.findTrack_none.1 hf x hx)

/-- Every entry has its sector in its volume's range. -/
def State.SectorsInRange (s : State) : Prop := ∀ y ∈ s.sectors, (s.vol y.1.track.volume).Holds y.1.sector

/-- R161 to R164. -/
theorem State.Balanced.releaseNow (h : s.Balanced) (hw : s.TablesCanonical) (hk : s.KeysDistinct)
    (hrange : s.SectorsInRange) {i : Nat} {e : Entry} (hget : Table.get s.entries i = some e)
    (hper : (s.vol e.key.track.volume).sectorsPerTrack ≤ 64) : (s.releaseNow i e).Balanced := by
  obtain ⟨j, r, hf, hkey, hgetr⟩ := h.findTrack hw hget
  have hsectors := State.sectors_of_get hget
  have hbooks := (Books.reorder h (State.trackList_of_get hgetr) hsectors).release hkey (hk.others hgetr)
    (hk.otherSectors hget) (fun y hy => hrange y (hsectors.mem_iff.2 hy)) hper
  unfold State.releaseNow
  rw [hf]
  dsimp only
  refine State.noteTrack_balanced (r := r) (volumes := s.vol) (v := e.key.track.volume)
    (x := (s.vol e.key.track.volume).release (e.status == Status.settled))
    (q := r.release (s.offsetOf e.key) (e.status == Status.settled)) ?_ ?_ ?_ ?_ ?_
  · exact hw.2.1
  · exact hgetr
  · change r.key.volume = _
    rw [hkey]
  · exact State.setVolume_vol { s with entries := Table.drop s.entries i } _ _
  · exact hbooks

/-- R107. -/
theorem State.Balanced.allocated (h : s.Balanced) (hw : s.TablesCanonical) (hk : s.KeysDistinct) {a : Attempt} {j : Nat}
    {r : Track} {i : Nat} (htrack : s.trackFor a.key.track = some (j, r))
    (hfree : Table.lowestFree s.entries 4096 0 = some i) (hunreleased : s.isReleased a.key = false)
    (hper : 1 ≤ (s.vol a.key.track.volume).sectorsPerTrack) : (s.allocated j r i a).Balanced := by
  obtain ⟨-, -, hgete, -⟩ := Table.lowestFree_some hfree
  have hsectors : (s.allocated j r i a).sectors.Perm ((a.key, .opened) :: s.sectors) :=
    (Table.put_perm hgete (Entry.fresh a s.settings.confirmTarget)).map _
  have hvol : (s.allocated j r i a).vol =
      Function.update s.vol a.key.track.volume
        { s.vol a.key.track.volume with live := (s.vol a.key.track.volume).live + 1 } :=
    State.setVolume_vol (s.setTrack j { r with live := r.live + 1 }) _ _
  unfold State.Balanced
  rw [hvol]
  obtain hf | ⟨hf, rfl, hlow⟩ := State.trackFor_some htrack
  · have hget := State.get_of_findTrack hw hf
    have hkey := (State.findTrack_some hf).1
    have hclear : r.releasedSet.getLsbD (a.key.sector - (s.vol a.key.track.volume).firstSector) = false := by
      unfold State.isReleased at hunreleased
      rw [hf] at hunreleased
      exact hunreleased
    exact ((Books.reorder h (State.trackList_of_get hget) (.refl _)).allocate hkey (hk.others hget) hclear).reorder
      (State.trackList_setTrack hw.2.1 hget { r with live := r.live + 1 }).symm hsectors.symm
  · have hnew := State.findTrack_none.1 hf
    obtain ⟨-, -, hget, -⟩ := Table.lowestFree_some hlow
    have hnewList : ∀ q ∈ s.trackList, q.key ≠ a.key.track := by
      intro q hq
      obtain ⟨x, hx, rfl⟩ := State.mem_trackList.1 hq
      exact hnew x hx
    have htracks := (Table.put_perm hget
      ({ Track.fresh a.key.track with live := (Track.fresh a.key.track).live + 1 } : Track)).map Prod.snd
    exact ((Books.addTrack h hnewList hper).allocate rfl hnewList (by simp [Track.fresh])).reorder htracks.symm
      hsectors.symm

/-- R104 to R109. -/
theorem State.Balanced.receive (h : s.Balanced) (hw : s.TablesCanonical) (hk : s.KeysDistinct) (a : Attempt)
    (hper : 1 ≤ (s.vol a.key.track.volume).sectorsPerTrack) : (s.receive a).Balanced := by
  have hsurplus := h.setVolume a.key.track.volume
    (x := { s.vol a.key.track.volume with surplus := satInc 65535 (s.vol a.key.track.volume).surplus })
    ⟨rfl, rfl, rfl, rfl, rfl, rfl, rfl⟩
  obtain ⟨-, heq⟩ | ⟨hunreleased, ⟨i, e, hf, hknown⟩ | ⟨hf, heq⟩⟩ := State.receive_cases s a
  · rw [heq]
    exact hsurplus
  · have hget := State.get_of_findEntry hw hf
    obtain ⟨heq, -⟩ | ⟨heq, -⟩ | ⟨heq, -⟩ := hknown <;> rw [heq]
    · exact State.Balanced.setEntry (e' := { e with surplus := satInc 65535 e.surplus }) hsurplus hw hget rfl
    · exact State.Balanced.setEntry (e' := { e with mismatches := satInc 65535 e.mismatches }) h hw hget rfl
    · exact State.Balanced.setEntry (e' := { e with busy := true }) h hw hget rfl
  · rw [heq]
    obtain heq | ⟨j, r, i, htrack, hfree, heq⟩ := State.accommodate_cases s a <;> rw [heq]
    · exact h.setVolume a.key.track.volume
        (x := { s.vol a.key.track.volume with tableFull := satInc 65535 (s.vol a.key.track.volume).tableFull })
        ⟨rfl, rfl, rfl, rfl, rfl, rfl, rfl⟩
    · have hbalanced := h.allocated hw hk htrack hfree hunreleased hper
      have htables : (s.allocated j r i a).Tables False :=
        State.Tables.allocated ⟨hw, False.elim⟩ htrack hfree (State.findEntry_none.1 hf)
      rw [State.allocate_same]
      exact State.Balanced.setEntry (e := Entry.fresh a s.settings.confirmTarget)
        (e' := { Entry.fresh a s.settings.confirmTarget with busy := true }) hbalanced htables.1
        (Table.get_put_same _ _ _) rfl

/-- R154: an entry's new status SETTLED is counted at its volume and its track. -/
theorem State.Balanced.settle (h : s.Balanced) (hw : s.TablesCanonical) (hk : s.KeysDistinct) {i : Nat} {e e' : Entry}
    (hget : Table.get s.entries i = some e) (hold : e.status ≠ .settled) (hkey : e'.key = e.key)
    (hnew : e'.status = .settled) (l : Fin 4) (x : Slot) :
    (((s.setEntry i e').setSlot i x).noteSettled e.key l).Balanced := by
  obtain ⟨j, r, hf, hrkey, hgetr⟩ := h.findTrack hw hget
  have hbooks := (Books.reorder h (State.trackList_of_get hgetr) (State.sectors_of_get hget)).settle hrkey
    (hk.others hgetr) hold
  have hsectors := State.sectors_setEntry hw hget e'
  rw [hkey, hnew] at hsectors
  have hfound : ((s.setEntry i e').setSlot i x).findTrack e.key.track = some (j, r) := hf
  unfold State.noteSettled
  rw [hfound]
  dsimp only
  refine State.noteTrack_balanced (r := r) (volumes := s.vol) (v := e.key.track.volume)
    (x := { s.vol e.key.track.volume with settled := (s.vol e.key.track.volume).settled + 1 }) ?_ ?_ ?_ ?_ ?_
  · exact hw.2.1
  · exact hgetr
  · change r.key.volume = _
    rw [hrkey]
  · exact State.setVolume_vol ((s.setEntry i e').setSlot i x) _ _
  · exact hbooks.reorder (.refl _) hsectors.symm

/-- R150, R154, R155: an evaluation of an entry that was not SETTLED. -/
theorem State.Balanced.noteStatus (h : s.Balanced) (hw : s.TablesCanonical) (hk : s.KeysDistinct) {i : Nat} {e e' : Entry}
    (hget : Table.get s.entries i = some e) (hold : e.status ≠ .settled) (hkey : e'.key = e.key) (l : Fin 4) (x : Slot) :
    (((s.setEntry i e').setSlot i x).noteStatus e.key l e.status e'.status).Balanced := by
  have hset : e'.status ≠ .settled → ((s.setEntry i e').setSlot i x).Balanced := by
    intro hnew
    have hsectors := State.sectors_setEntry hw hget e'
    rw [hkey] at hsectors
    exact ((Books.reorder h (.refl _) (State.sectors_of_get hget)).restate hold hnew).reorder (.refl _) hsectors.symm
  unfold State.noteStatus
  split
  next hsame => exact hset (hsame ▸ hold)
  next =>
    split
    next hnew => exact h.settle hw hk hget hold hkey hnew l x
    next hnew => exact hset (hnew ▸ nofun)
    next hnew _ => exact hset hnew

/-- Every effect keeps the books. -/
theorem State.Balanced.effect (he : s.Effect t) (h : s.Balanced) (hw : s.TablesCanonical) (hk : s.KeysDistinct)
    (hgeometry : s.GeometrySound) (hopen : s.NamedVolumesOpen) (hlanes : s.LanesConsistent) (hbusy : s.BusyEntryInHand) :
    t.Balanced := by
  have ⟨hpers, hentries, _⟩ := hgeometry
  have hnames := State.namedVolumesOpen_iff.1 hopen
  have hlist : ∀ r ∈ s.trackList, s.Names r.key.volume := by
    intro r hr
    obtain ⟨x, hx, rfl⟩ := State.mem_trackList.1 hr
    exact .inr (.inl ⟨x, hx, rfl⟩)
  have hsectors : ∀ y ∈ s.sectors, s.Names y.1.track.volume := by
    intro y hy
    obtain ⟨e, hmem, rfl⟩ := State.mem_sectors.1 hy
    exact .inl ⟨e, hmem, rfl⟩
  cases he with
  | outside hst =>
    rw [hst]
    exact h
  | lane | settings | profile | preset | abort => exact h
  | openVolume v n cylinders heads first perTrack hrange hfree =>
    have hunnamed (w : Fin 8) (hw : s.Names w) : w ≠ v := by
      rintro rfl
      have := hnames w hw
      rw [hfree] at this
      cases this
    unfold State.Balanced
    rw [State.setVolume_vol]
    exact Books.openVolume h (fun y hy => hunnamed _ (hsectors y hy)) (fun r hr => hunnamed _ (hlist r hr))
      ⟨rfl, rfl, rfl, rfl⟩
  | closeVolume v hfree =>
    have hclosed := Books.closeVolume h v (x := { s.vol v with isOpen := false, live := 0, settled := 0 }) ⟨rfl, rfl, rfl⟩
    have hvol : (s.closeNow v).vol =
        Function.update s.vol v { s.vol v with isOpen := false, live := 0, settled := 0 } :=
      State.setVolume_vol
        { s with
          entries := s.entries.filter fun e => e.2.key.track.volume != v
          tracks := s.tracks.filter fun t => t.2.key.volume != v } _ _
    unfold State.Balanced
    rw [hvol]
    unfold State.trackList State.sectors at hclosed ⊢
    rw [List.filter_map, List.filter_map] at hclosed
    exact hclosed
  | release i e hget =>
    have hmem := Table.mem_of_get hget
    refine h.releaseNow hw hk (fun y hy => ?_) hget (hpers _ (hnames _ (.inl ⟨_, hmem, rfl⟩))).2
    obtain ⟨x, hx, rfl⟩ := State.mem_sectors.1 hy
    exact hentries x hx
  | reset =>
    have hvol : s.resetBlocks.vol = fun _ => Volume.reset := by
      funext v
      simp [State.vol, State.resetBlocks, State.reset]
    unfold State.Balanced
    rw [hvol]
    exact Books.reset
  | complete i =>
    rw [State.completePass_frame]
    exact h
  | grant =>
    obtain heq | ⟨l, arb, a, rest, -, -, hqueue, heq⟩ := s.grantOne_popped <;> rw [heq]
    · exact h
    · have hwaits : s.Waits a.key := ⟨l, a, rest, hqueue, rfl⟩
      exact State.Balanced.receive (s := s.popped l arb rest) h hw hk a (hpers _ (hnames _ (hwaits.names hlanes))).1
  | advance hand upTo =>
    obtain ⟨heq, -⟩ := State.advanceMerge_frame s hand upTo
    rw [heq]
    exact h
  | endMerge hand =>
    obtain ⟨heq, -⟩ | ⟨e, x, hget, -, heq⟩ := s.endMerge_cases hand <;> rw [heq]
    · exact h
    · obtain ⟨hkey, hstatus, -⟩ := Entry.afterMerge_frame e x.witness hand.attempt
      exact h.setEntry hw hget (e' := e.afterMerge x.witness hand.attempt) (congrArg₂ Prod.mk hkey hstatus)
  | evaluation hand _ hhand =>
    obtain ⟨heq, -⟩ | ⟨e, x, d, e', hget, -, -, he', heq⟩ := s.completeEvaluation_cases hand <;> rw [heq]
    · exact h
    · obtain ⟨-, hheld, -⟩ := hbusy
      obtain ⟨f, hgf, -, -, hstatus⟩ := hheld hand hhand
      obtain rfl : e = f := Option.some.inj (hget.symm.trans hgf)
      have hold : e.status ≠ .settled := by
        obtain hstatus | hstatus := hstatus <;> rw [hstatus] <;> decide
      exact h.noteStatus hw hk hget hold (he' ▸ rfl) hand.attempt.lane ⟨x.lists, d.witness, d.image⟩

/-! ## The bound on settled and released sectors -/

/-- R100: the SETTLED entries of a track and its released sectors are different sectors of the track. -/
theorem Track.Matches.settled_add_released_le {r : Track} {sectors : List Sector} {x : Volume} (h : r.Matches sectors x)
    (hkeys : (sectors.map Prod.fst).Nodup) (hrange : ∀ y ∈ sectors, y.1.track = r.key → x.Holds y.1.sector) : r.settled + r.released ≤ x.sectorsPerTrack := by
  obtain ⟨⟨-, hsettled⟩, hreleased, hbelow, hapart, -⟩ := h
  generalize hown : sectors.filter (fun y => Sector.inTrack r.key y && y.isSettled) = own at *
  generalize hset : (List.range 64).filter (fun k => r.releasedSet.getLsbD k) = set at *
  have hmem {y : Sector} (hy : y ∈ own) : y ∈ sectors ∧ y.1.track = r.key := by
    rw [← hown, List.mem_filter] at hy
    simp only [Sector.inTrack, Bool.and_eq_true, beq_iff_eq] at hy
    exact ⟨hy.1, hy.2.1⟩
  have hoffsets : (own.map fun y => y.1.sector - x.firstSector).Nodup := by
    have hnodup : (own.map Prod.fst).Nodup := by
      rw [← hown]
      exact hkeys.sublist ((List.filter_sublist (l := sectors)).map _)
    refine List.Nodup.map_on (fun y hy z hz heq => ?_) (List.Nodup.of_map _ hnodup)
    obtain ⟨hys, hyk⟩ := hmem hy
    obtain ⟨hzs, hzk⟩ := hmem hz
    obtain ⟨hylow, -⟩ := hrange y hys hyk
    obtain ⟨hzlow, -⟩ := hrange z hzs hzk
    refine List.inj_on_of_nodup_map hnodup hy hz ?_
    have hsector : y.1.sector = z.1.sector := by omega
    exact show SectorKey.mk y.1.track y.1.sector = ⟨z.1.track, z.1.sector⟩ by rw [hyk, hzk, hsector]
  have hdisjoint : List.Disjoint (own.map fun y => y.1.sector - x.firstSector) set := by
    intro k hk hkset
    obtain ⟨y, hy, rfl⟩ := List.mem_map.1 hk
    obtain ⟨hys, hyk⟩ := hmem hy
    rw [← hset, List.mem_filter, hapart y hys hyk] at hkset
    cases hkset.2
  have hsubset : (own.map fun y => y.1.sector - x.firstSector) ++ set ⊆ List.range x.sectorsPerTrack := by
    intro k hk
    obtain hk | hk := List.mem_append.1 hk
    · obtain ⟨y, hy, rfl⟩ := List.mem_map.1 hk
      obtain ⟨hys, hyk⟩ := hmem hy
      obtain ⟨hlow, hhigh⟩ := hrange y hys hyk
      exact List.mem_range.2 (by omega)
    · rw [← hset, List.mem_filter, List.mem_range] at hk
      exact List.mem_range.2 (hbelow k hk.1 hk.2)
  have hnodup : ((own.map fun y => y.1.sector - x.firstSector) ++ set).Nodup :=
    hoffsets.append (hset ▸ List.nodup_range.filter _) hdisjoint
  have hlength := (hnodup.subperm hsubset).length_le
  rw [List.length_append, List.length_map, List.length_range, ← hown, ← List.countP_eq_length_filter, ← hsettled,
    ← hreleased] at hlength
  exact hlength

/-! ## The obligation -/

theorem countP_sectors (s : State) (f : Sector → Bool) :
    s.sectors.countP f = s.entries.countP fun e => f (e.2.key, e.2.status) := List.countP_map

theorem releasedOf_trackList (s : State) (v : Fin 8) :
    releasedOf s.trackList v = ((s.tracks.filter fun t => t.2.key.volume == v).map fun t => t.2.released).sum := by
  unfold releasedOf State.trackList
  rw [List.filter_map, List.map_map]
  rfl

theorem doneOf_trackList (s : State) (v : Fin 8) :
    doneOf s.trackList v = s.tracks.countP fun t => t.2.key.volume == v && t.2.done := List.countP_map

/-- The four statements about the counts are the state's books and the bound on each track record. -/
theorem State.balanced_iff :
    (s.VolumeCountsMatch ∧ s.VolumeTalliesMatch ∧ s.TrackCountsMatch ∧ s.ReleasedSetsMatch) ↔
      s.Balanced ∧ ∀ t ∈ s.tracks, t.2.settled + t.2.released ≤ (s.volumes[t.2.key.volume]).sectorsPerTrack := by
  constructor
  · rintro ⟨hcounts, htallies, ⟨hrecorded, htrack⟩, hreleased⟩
    refine ⟨⟨fun v => ⟨⟨?_, ?_⟩, fun ho => ?_, fun ho => ?_⟩, fun y hy => ?_, fun r hr => ?_⟩,
      fun t ht => (hreleased t ht).2.2.2.1⟩
    · exact (hcounts v).1.trans (countP_sectors s (Sector.inVolume v)).symm
    · exact (hcounts v).2.trans (countP_sectors s fun x => Sector.inVolume v x && x.isSettled).symm
    · exact (htallies v ho).1.trans (releasedOf_trackList s v).symm
    · exact (htallies v ho).2.trans (doneOf_trackList s v).symm
    · obtain ⟨e, he, rfl⟩ := State.mem_sectors.1 hy
      obtain ⟨t, ht, hk⟩ := hrecorded e he
      exact ⟨t.2, State.mem_trackList.2 ⟨t, ht, rfl⟩, hk⟩
    · obtain ⟨t, ht, rfl⟩ := State.mem_trackList.1 hr
      obtain ⟨hlive, hsettled⟩ := htrack t ht
      obtain ⟨hset, hbelow, hapart, -, hdone⟩ := hreleased t ht
      refine ⟨⟨hlive.trans (countP_sectors s (Sector.inTrack t.2.key)).symm,
        hsettled.trans (countP_sectors s fun x => Sector.inTrack t.2.key x && x.isSettled).symm⟩, hset, hbelow,
        fun y hy hk => ?_, hdone⟩
      obtain ⟨e, he, rfl⟩ := State.mem_sectors.1 hy
      exact hapart e he hk
  · rintro ⟨hbooks, hbound⟩
    have htrack (t : Nat × Track) (ht : t ∈ s.tracks) := hbooks.track t.2 (State.mem_trackList.2 ⟨t, ht, rfl⟩)
    refine ⟨fun v => ⟨?_, ?_⟩, fun v ho => ⟨?_, ?_⟩, ⟨fun e he => ?_, fun t ht => ⟨?_, ?_⟩⟩, fun t ht => ?_⟩
    · exact (hbooks.volume v).counts.1.trans (countP_sectors s _)
    · exact (hbooks.volume v).counts.2.trans (countP_sectors s _)
    · exact ((hbooks.volume v).released ho).trans (releasedOf_trackList s v)
    · exact ((hbooks.volume v).tracksDone ho).trans (doneOf_trackList s v)
    · obtain ⟨r, hr, hk⟩ := hbooks.recorded _ (State.mem_sectors.2 ⟨e, he, rfl⟩)
      obtain ⟨t, ht, rfl⟩ := State.mem_trackList.1 hr
      exact ⟨t, ht, hk⟩
    · exact (htrack t ht).counts.1.trans (countP_sectors s _)
    · exact (htrack t ht).counts.2.trans (countP_sectors s _)
    · obtain ⟨-, hset, hbelow, hapart, hdone⟩ := htrack t ht
      exact ⟨hset, hbelow, fun e he hk => hapart _ (State.mem_sectors.2 ⟨e, he, rfl⟩) hk, hbound t ht, hdone⟩

/-- The bound holds of every track record of a state whose books, keys and geometry are right. -/
theorem State.Balanced.bound (h : s.Balanced) (hk : s.KeysDistinct) (hgeometry : s.GeometrySound) :
    ∀ t ∈ s.tracks, t.2.settled + t.2.released ≤ (s.volumes[t.2.key.volume]).sectorsPerTrack := by
  intro t ht
  obtain ⟨-, hentries, -⟩ := hgeometry
  refine (h.track t.2 (State.mem_trackList.2 ⟨t, ht, rfl⟩)).settled_add_released_le hk.sectors fun y hy hyk => ?_
  obtain ⟨e, he, rfl⟩ := State.mem_sectors.1 hy
  have hholds := hentries e he
  have hyk : e.2.key.track = t.2.key := hyk
  rw [← hyk]
  exact hholds

/-- What changes neither first sector nor sectors per track holds the same sectors. -/
theorem Volume.SameRange.holds {x y : Volume} (h : x.SameRange y) {sector : Nat} (hx : x.Holds sector) :
    y.Holds sector := by
  obtain ⟨-, hfirst, hper⟩ := h
  unfold Volume.Holds
  rw [hfirst, hper]
  exact hx

/-- R74: every attempt a change of a lane leaves in the queue was there, or lies in its volume's range. -/
theorem Lane.Change.queue_holds {i : Fin 4} {x : Lane} (hx : Lane.Change s i x)
    (h : ∀ a ∈ (s.lanes[i]).queue, (s.volumes[a.key.track.volume]).Holds a.key.sector) :
    ∀ a ∈ x.queue, (s.volumes[a.key.track.volume]).Holds a.key.sector := by
  cases hx with
  | same | counted | completed | promoted => exact h
  | effect hx =>
    have hF : FramerKeeps (fun _ => True) fun _ => True := .of_moves fun _ _ _ _ _ => ⟨trivial, fun _ _ => trivial⟩
    refine (Lane.Carries.effect (A := fun a => (s.volumes[a.key.track.volume]).Holds a.key.sector) hF
      (fun d x _ _ hin => ?_) hx ⟨trivial, h⟩).2
    simp only [LaneEnv.inGeometry, Volume.holdsSector, Bool.and_eq_true, decide_eq_true_eq] at hin
    exact hin.1
  | abort discardQueue clearChain =>
    cases discardQueue
    · exact h
    · exact nofun
  | popped a rest hqueue => exact fun b hb => h b (hqueue ▸ .tail a hb)
  | reset => exact nofun

/-- Every effect keeps the sectors in range. -/
theorem State.GeometrySound.effect (he : s.Effect t) (h : s.GeometrySound) (hopen : s.NamedVolumesOpen)
    (hlanes : s.LanesConsistent) : t.GeometrySound := by
  have ⟨hpers, hentries, hqueues⟩ := h
  have hstands {v : Fin 8} (hv : t.Names v) := he.named_range hopen hlanes hv
  refine ⟨fun v hv => ?_, fun e hmem => ?_, fun i a ha => ?_⟩
  · obtain hsame | ⟨w, n, cylinders, heads, first, perTrack, hrange, -, rfl⟩ | ⟨w, -, rfl⟩ | rfl := he.volumeChange
    · obtain ⟨hsameOpen, -, hper⟩ := hsame v
      rw [hper]
      exact hpers v (hsameOpen ▸ hv)
    · by_cases hvw : v = w
      · subst hvw
        rw [State.setVolume_get]
        simp only [openInRange, Bool.and_eq_true, decide_eq_true_eq] at hrange
        exact ⟨hrange.1.1.2, hrange.1.2⟩
      · rw [State.setVolume_get_ne _ _ _ _ hvw] at hv ⊢
        exact hpers v hv
    · change (1 ≤ ((s.closeNow w).vol v).sectorsPerTrack ∧ ((s.closeNow w).vol v).sectorsPerTrack ≤ 64)
      have hv : ((s.closeNow w).vol v).isOpen = true := hv
      have hvol : (s.closeNow w).vol =
          Function.update s.vol w { s.vol w with isOpen := false, live := 0, settled := 0 } :=
        State.setVolume_vol
          { s with
            entries := s.entries.filter fun e => e.2.key.track.volume != w
            tracks := s.tracks.filter fun t => t.2.key.volume != w } _ _
      rw [hvol] at hv ⊢
      by_cases hvw : v = w
      · subst hvw
        rw [Function.update_self] at hv
        cases hv
      · rw [Function.update_of_ne hvw] at hv ⊢
        exact hpers v hv
    · have hclosed : (s.resetBlocks.volumes[v]).isOpen = false := by simp [State.resetBlocks, State.reset, Volume.reset]
      rw [hclosed] at hv
      cases hv
  · refine (hstands (.inl ⟨e, hmem, rfl⟩)).holds ?_
    obtain ⟨y, hy, hkey⟩ | ⟨l, a, rest, hqueue, hkey⟩ := he.tableKeys.1 e hmem
    · rw [← hkey]
      exact hentries y hy
    · rw [← hkey]
      exact hqueues l a (hqueue ▸ .head rest)
  · obtain ⟨-, -, hqueued⟩ := (hlanes.effect he) i
    obtain ⟨-, d, hd, hkey⟩ := hqueued a ha
    refine (hstands (.inr (.inr (.inl ⟨i, d, .inl hd, by rw [hkey]⟩)))).holds ?_
    exact (he.laneChange i).queue_holds (hqueues i) a ha

/-- Settles O59: every effect keeps the books, event by event of the tables; the bound on settled and released sectors
counts different sectors of one track. -/
theorem countsMatchTheEntries : Obligations.CountsMatchTheEntries := by
  intro s t hcounts htallies htracks hgeometry hreleased hcanonical hkeys hopen hlanes hbusy hstep
  have hbalanced := (State.balanced_iff.1 ⟨hcounts, htallies, htracks, hreleased⟩).1
  have htables : s.Tables True := ⟨hcanonical, fun _ => hkeys⟩
  obtain ⟨hbalanced', hgeometry', htables', -⟩ :=
    step_keeps
      (P := fun s => s.Balanced ∧ s.GeometrySound ∧ s.Tables True ∧ s.NamedVolumesOpen ∧ s.LanesConsistent
        ∧ s.BusyEntryInHand)
      (fun _ _ h => h)
      (fun _ _ he ⟨hb, hg, ht, ho, hl, hbusy⟩ =>
        ⟨hb.effect he ht.1 (ht.2 trivial) hg ho hl hbusy, hg.effect he ho hl, ht.effect he, ho.effect he hl,
          hl.effect he, hbusy.effect he ht.1⟩)
      hstep ⟨hbalanced, hgeometry, htables, hopen, hlanes, hbusy⟩
  obtain ⟨hcounts', htallies', htracks', hreleased'⟩ :=
    State.balanced_iff.2 ⟨hbalanced', hbalanced'.bound (htables'.2 trivial) hgeometry'⟩
  exact ⟨hcounts', htallies', htracks', hgeometry', hreleased'⟩

end balanced

end Sys2Proof.Machine
end

section
/-! SUPPORT. Steps and reset (R185, R186): every command completes and keeps the queue, and the state after reset meets the
invariants. -/

namespace Sys2Proof.Machine

/-! ## Steps -/

/-- Settles O1: a step with a command waiting is that command's dispatch. -/
theorem stepTakesTheFrontCommand : Obligations.StepTakesTheFrontCommand := fun _ _ _ => rfl

/-- No effect touches the queue of waiting commands. -/
theorem State.Effect.pending {s t : State} (he : s.Effect t) : t.pending = s.pending := by
  cases he with
  | outside hst => rw [hst]
  | lane | settings | profile | preset | openVolume | closeVolume | abort | reset => rfl
  | release i e => rw [State.releaseNow_frame]
  | complete i => rw [State.completePass_frame]
  | grant =>
    obtain heq | ⟨l, arb, a, rest, -, -, -, heq⟩ := s.grantOne_popped <;> rw [heq]
    rw [State.receive_frame]
    rfl
  | advance hand upTo =>
    obtain ⟨heq, -⟩ := State.advanceMerge_frame s hand upTo
    rw [heq]
  | endMerge hand => rw [State.endMerge_frame]
  | evaluation hand => rw [State.completeEvaluation_frame]

theorem State.Effects.pending {s t : State} (h : s.Effects t) : t.pending = s.pending := by
  induction h with
  | refl => rfl
  | tail _ he ih => exact he.pending.trans ih

/-- Settles O2: every command leads through a chain of effects to a next state, and no effect touches the queue. -/
theorem everyCommandCompletesAndKeepsTheQueue : Obligations.EveryCommandCompletesAndKeepsTheQueue := by
  intro c s
  obtain ⟨t, hexec, heffects⟩ := exec_effects c s
  exact ⟨t, hexec, heffects.pending⟩

/-! ## The state after reset -/

theorem State.reset_lane (i : Fin 4) : State.reset.lanes[i] = Lane.reset := by simp [State.reset]

theorem State.reset_volume (v : Fin 8) : State.reset.volumes[v] = Volume.reset := by simp [State.reset]

/-- R10 to R39: a lane after reset holds no descriptor, no ID, no attempt and no open interval. -/
theorem Lane.reset_clockInRange : Lane.reset.ClockInRange := by
  refine ⟨?_, ?_, fun h => absurd rfl h, fun h => absurd rfl h⟩
  · rintro d (hd | hd) <;> cases hd
  · decide

theorem State.reset_fieldsInRange : State.reset.FieldsInRange := by
  obtain ⟨hsettings, hprofiles, hpresets⟩ := State.reset_storedInRange
  refine ⟨hsettings, hprofiles, hpresets, fun i => ?_⟩
  rw [State.reset_lane]
  exact ⟨Schedule.reset_inRange, Schedule.reset_inRange⟩

theorem State.reset_evidenceSound : State.reset.EvidenceSound := by
  refine State.evidenceSound_iff.2 ⟨⟨fun i => ?_, nofun⟩, by decide, by decide, nofun⟩
  rw [State.reset_lane]
  exact ⟨⟨nofun, nofun⟩, nofun⟩

theorem State.reset_recordsWhole : State.reset.RecordsWhole := by
  refine State.recordsWhole_iff.2 ⟨⟨fun i => ?_, nofun⟩, nofun, nofun⟩
  rw [State.reset_lane]
  exact ⟨⟨rfl, by simp [Lane.reset, Framer.reset], by simp [Lane.reset, Framer.reset]⟩, nofun⟩

theorem State.reset_namedVolumesOpen : State.reset.NamedVolumesOpen := by
  refine ⟨nofun, nofun, fun i d hd => ?_, nofun⟩
  rw [State.reset_lane] at hd
  obtain hd | hd := hd <;> cases hd

theorem State.reset_lanesConsistent : State.reset.LanesConsistent := by
  intro i
  rw [State.reset_lane]
  exact ⟨fun _ => ⟨rfl, rfl, rfl⟩, Nat.zero_le 6, nofun⟩

theorem State.reset_geometrySound : State.reset.GeometrySound := by
  refine ⟨fun v hv => ?_, nofun, fun i a ha => ?_⟩
  · rw [State.reset_volume] at hv
    cases hv
  · rw [State.reset_lane] at ha
    cases ha

theorem State.reset_balanced : State.reset.Balanced := by
  have hvol : State.reset.vol = fun _ => Volume.reset := funext State.reset_volume
  unfold State.Balanced
  rw [hvol]
  exact Books.reset

/-- Settles O60: with every table and queue empty and every volume FREE, each invariant holds of the reset values. -/
theorem resetMeetsTheInvariants : Obligations.ResetMeetsTheInvariants := by
  obtain ⟨hcounts, htallies, htracks, hreleased⟩ := State.balanced_iff.2 ⟨State.reset_balanced, nofun⟩
  exact ⟨⟨rfl, rfl, rfl, rfl⟩, ⟨List.nodup_nil, List.nodup_nil⟩, State.reset_fieldsInRange,
    fun i => State.reset_lane i ▸ Lane.reset_clockInRange, .refl _, State.reset_evidenceSound, State.reset_recordsWhole,
    State.reset_namedVolumesOpen, State.reset_lanesConsistent, .of_resting ⟨rfl, rfl, nofun⟩, nofun, hcounts, htallies,
    htracks, State.reset_geometrySound, hreleased⟩

end Sys2Proof.Machine
end

section
/-! SUPPORT. Transactions (R170 to R174, R182, R184 to R186): the bytes of a command, the status byte and the data-out line, the
rise of chip select, and the event flags. -/

namespace Sys2Proof.Machine

/-! ## The bytes of a command -/

/-- R171: of the bytes after a code, as many belong to the command as it has arguments. -/
theorem decodeTransaction_append (p : PortId) {code : Byte} {args : List Byte} (h : args.length = argumentCount code)
    (rest : List Byte) : decodeTransaction p (code :: (args ++ rest)) = decodeArguments p code args := by
  change decodeArguments p code ((args ++ rest).take (argumentCount code)) = _
  rw [← h, List.take_left]

/-- R171: a code outside the command table is a command of its own, without arguments. -/
theorem decodeArguments_unlisted (p : PortId) {code : Byte} (h : commandCodes.contains code = false) :
    decodeArguments p code [] = some (.unknownCommand p code) := by
  simp only [commandCodes, List.contains_eq_mem, decide_eq_false_iff_not, List.mem_cons, not_or] at h
  obtain ⟨h00, h01, h02, h10, h11, h12, h20, h21, h30, h31, h40, h41, h42, h48, h7E, -⟩ := h
  unfold decodeArguments
  rw [if_neg h00, if_neg h01, if_neg h02, if_neg h10, if_neg h11, if_neg h12, if_neg h20, if_neg h21, if_neg h30,
    if_neg h31, if_neg h40, if_neg h41, if_neg h42, if_neg h48, if_neg h7E]

/-- R174: two bytes of a word, high byte first, are the word again. -/
theorem decode_word {f : Word → Instr} (w : Word) :
    some (f (wordOf (w.extractLsb' 8 8) (w.extractLsb' 0 8))) = some (f w) := by rw [wordOf_wordBytes]

/-- Settles O51: the bytes of a command are its code and as many argument bytes as the code asks for, and the two bytes of a
word give the word. -/
theorem commandsSurviveTheirTransaction : Obligations.CommandsSurviveTheirTransaction := by
  intro i p bytes rest hw h
  cases i with
  | status | readEvents | readWindow | writeWindow | resetDevice =>
    cases h
    exact decodeTransaction_append p (args := []) rfl rest
  | closeVolume q volume =>
    cases h
    exact decodeTransaction_append p (args := [volume]) rfl rest
  | abortPass q lane flags =>
    cases h
    exact decodeTransaction_append p (args := [lane, flags]) rfl rest
  | setEventMask q mask =>
    cases h
    exact (decodeTransaction_append p (args := wordBytes mask) rfl rest).trans (decode_word mask)
  | release q index =>
    cases h
    exact (decodeTransaction_append p (args := wordBytes index) rfl rest).trans (decode_word index)
  | setWindow q space index offset =>
    cases h
    refine (decodeTransaction_append p (args := [space] ++ wordBytes index ++ wordBytes offset) rfl rest).trans ?_
    exact (decode_word (f := fun w => .setWindow p space w (wordOf _ _)) index).trans (decode_word offset)
  | openVolume q volume profile cylinders heads first perTrack =>
    cases h
    exact (decodeTransaction_append p (args := [volume, profile] ++ wordBytes cylinders ++ [heads, first, perTrack]) rfl
      rest).trans (decode_word (f := fun w => .openVolume p volume profile w heads first perTrack) cylinders)
  | postPass q laneVolume cylinder head revolutions settle selector cellOverride =>
    cases h
    refine (decodeTransaction_append p
      (args := [laneVolume] ++ wordBytes cylinder ++ [head, revolutions, settle, selector] ++ wordBytes cellOverride) rfl
      rest).trans ?_
    exact (decode_word (f := fun w => .postPass p laneVolume w head revolutions settle selector (wordOf _ _))
      cylinder).trans (decode_word cellOverride)
  | locate q volume cylinder head sector =>
    cases h
    exact (decodeTransaction_append p (args := [volume] ++ wordBytes cylinder ++ [head, sector]) rfl rest).trans
      (decode_word (f := fun w => .locate p volume w head sector) cylinder)
  | queryTrack q volume cylinder head =>
    cases h
    exact (decodeTransaction_append p (args := [volume] ++ wordBytes cylinder ++ [head]) rfl rest).trans
      (decode_word (f := fun w => .queryTrack p volume w head) cylinder)
  | nextSettled q volume fromIndex =>
    cases h
    exact (decodeTransaction_append p (args := [volume] ++ wordBytes fromIndex) rfl rest).trans (decode_word fromIndex)
  | unknownCommand q code =>
    cases h
    have hunlisted : commandCodes.contains code = false := by simpa [Instr.wellFormed] using hw
    exact (decodeTransaction_append p (args := []) (Laws.argumentCount_unlisted hunlisted).symm rest).trans
      (decodeArguments_unlisted p hunlisted)
  | _ => cases h

/-! ## Chip select -/

/-- R170: the status byte is the sum of its three fields, which fit into it. -/
theorem State.statusByte_toNat (s : State) (p : PortId) :
    (s.statusByte p).toNat =
      (if (s.port p).flags &&& (s.port p).mask = 0 then 0 else 128) + 16 * (s.port p).lastResult.code
        + (if s.engine.phase = .idle then 0 else 8) := by
  have hattention : (if (s.port p).attention = true then 128 else 0) =
      (if (s.port p).flags &&& (s.port p).mask = 0 then 0 else 128) := by
    unfold Port.attention
    by_cases h : (s.port p).flags &&& (s.port p).mask = 0 <;> simp [h]
  have hbusy : (if s.engine.busy = true then 8 else 0) = (if s.engine.phase = .idle then 0 else 8) := by
    unfold Engine.busy
    by_cases h : s.engine.phase = .idle <;> simp [h]
  have hcode : (s.port p).lastResult.code ≤ 6 := by
    cases (s.port p).lastResult <;> decide
  unfold State.statusByte
  rw [hattention, hbusy, BitVec.toNat_ofNat, Nat.mod_eq_of_lt]
  split <;> split <;> omega

theorem exec_chipSelectFall {p : PortId} {s : State} (h : (s.port p).phase = .closed) :
    exec (.chipSelectFall p) s =
      .next (s.setPort p
        { s.port p with phase := if s.resetLow then .abandoned else .command (s.statusByte p) }) := by
  change execChipSelectFall p s = _
  unfold execChipSelectFall
  rw [h]

/-- Settles O4: the status byte is the sum of its fields, and the data-out line is read off the phase. -/
theorem chipSelectFallCapturesTheStatusByte : Obligations.ChipSelectFallCapturesTheStatusByte := by
  refine ⟨fun p s hclosed => ⟨fun hlow => ⟨s.statusByte p, ?_, s.statusByte_toNat p⟩, fun hlow => ?_⟩, rfl, fun k =>
    ⟨rfl, fun status => rfl, fun out copy => ⟨fun hk => ?_, fun hk => ?_⟩, fun out hk => ?_, fun out => rfl, rfl⟩⟩
  · rw [exec_chipSelectFall hclosed, hlow]
    rfl
  · rw [exec_chipSelectFall hclosed, hlow]
    rfl
  · change some (out.getD k 0) = out[k]?
    rw [List.getD_eq_getElem _ _ hk, List.getElem?_eq_getElem hk]
  · change some (out.getD k 0) = some 0
    rw [List.getD_eq_default _ _ hk]
  · change some (out.getD k 0) = out[k]?
    rw [List.getD_eq_getElem _ _ hk, List.getElem?_eq_getElem hk]

/-- R171: a port that awaits no command takes none of those sent as bytes. -/
theorem exec_unready {p : PortId} {s : State} (h : ¬ s.ready p) {i : Instr} {bytes : List Byte}
    (hi : i.transaction = some (p, bytes)) : exec i s = .next s := by
  have hawaits : ¬ (s.port p).phase.awaitsCommand = true := fun ha => h (State.ready_iff.2 ha)
  have htaken (body : State → Reply) : Host.Outcome.next (s.onCommand p body) = (.next s : Result) :=
    congrArg _ (State.onCommand_unready h body)
  have htested (t : State) :
      Host.Outcome.next (if (s.port p).phase.awaitsCommand = true then t else s) = (.next s : Result) :=
    congrArg _ (if_neg hawaits)
  cases i with
  | status | readEvents | readWindow | writeWindow | resetDevice =>
    cases hi
    exact htested _
  | setEventMask | setWindow | openVolume | closeVolume | postPass | abortPass | locate | queryTrack | nextSettled | release =>
    cases hi
    exact htaken _
  | unknownCommand q code =>
    cases hi
    refine congrArg Host.Outcome.next ?_
    split
    · rfl
    · exact State.onCommand_unready h _
  | _ => cases hi

/-- Settles O5: chip select and an unlisted code act by the port's phase, and a port that awaits no command takes none. -/
theorem chipSelectRiseAndUnknownCodes : Obligations.ChipSelectRiseAndUnknownCodes := by
  refine fun p s => ⟨fun hready => ⟨?_, fun code hcode => ?_⟩, fun hready hopen => ?_, fun habandoned => ?_,
    fun i bytes hi hready => exec_unready hready hi⟩
  · obtain ⟨status, hphase⟩ := hready
    change execTransactionCut p s = _
    unfold execTransactionCut
    rw [hphase]
  · have hunlisted : ¬ commandCodes.contains code = true := by simpa [commandCodes] using hcode
    change execUnknownCommand p code s = _
    unfold execUnknownCommand
    rw [if_neg hunlisted, State.onCommand_answers hready (fun t => ⟨.unknown, [], t⟩) rfl]
  · change execDataPhaseEnd p s = _
    unfold execDataPhaseEnd
    split
    next hclosed => exact absurd hclosed hopen
    next status hcommand => exact absurd ⟨status, hcommand⟩ hready
    next => rfl
  · change execTransactionCut p s = _
    unfold execTransactionCut
    rw [habandoned]

/-! ## Events -/

/-- R182: the bit of a raised event, alone. -/
theorem Event.getLsbD_bit (e : Event) {k : Nat} (hk : k < 16) : (1#16 <<< e.bit).getLsbD k = decide (k = e.bit) := by
  have hbit : e.bit < 16 := by
    cases e with
    | passDone l => exact l.isLt.trans (by decide)
    | _ => decide
  rw [BitVec.getLsbD_shiftLeft, BitVec.getLsbD_one, decide_eq_true hk, Bool.true_and]
  by_cases h : k = e.bit
  · subst h
    simp
  · simp [h]
    omega

theorem exec_setEventMask {p : PortId} {s : State} (h : s.ready p) (mask : Word) :
    exec (.setEventMask p mask) s =
      .next ((s.setPort p { s.port p with mask := mask &&& 0x03FF#16 }).answered p .ok []) :=
  congrArg Host.Outcome.next (State.onCommand_answers h _ rfl)

/-- Settles O8: each event's bit, the ten bits stored of a mask, and the attention line bit by bit. -/
theorem eventMaskDrivesTheAttentionLine : Obligations.EventMaskDrivesTheAttentionLine := by
  refine ⟨fun e s => ⟨rfl, fun p => ⟨?_, fun k hk => ?_⟩⟩, fun p mask s hready => ⟨_, exec_setEventMask hready mask,
    fun k hk => ?_⟩, fun x => ?_⟩
  · rw [State.raise_port]
    rfl
  · rw [State.raise_port, Port.raise_flags, BitVec.getLsbD_or, e.getLsbD_bit hk]
    cases e <;> rfl
  · have hstored : ∀ j < 16, (0x03FF#16).getLsbD j = decide (j < 10) := by decide
    rw [BitVec.getLsbD_and, hstored k hk, Bool.and_comm]
  · unfold Port.attention
    rw [bne_iff_ne, Ne, ← not_iff_not, not_not]
    constructor
    · rintro hzero ⟨k, -, hflag, hmask⟩
      have hbit := congrArg (fun w => w.getLsbD k) hzero
      simp [hflag, hmask] at hbit
    · intro hnone
      refine BitVec.eq_of_getLsbD_eq fun k hk => ?_
      change (x.flags &&& x.mask).getLsbD k = (0#16).getLsbD k
      rw [BitVec.getLsbD_and, BitVec.getLsbD_zero, Bool.and_eq_false_iff]
      by_contra hboth
      push Not at hboth
      exact hnone ⟨k, hk, by simpa using hboth.1, by simpa using hboth.2⟩

end Sys2Proof.Machine
end

section
/-! SUPPORT. What the window shows (R117, R157, R159, R179 to R181): records as lists of fields of given widths, and the number at
each field's offset. -/

namespace Sys2Proof.Machine

/-! ## Fields -/

/-- The bytes of fields, each a width and a number, one after another. -/
def layout : List (Nat × Nat) → List Byte
  | [] => []
  | (w, v) :: rest => bytesBE w v ++ layout rest

theorem layout_append (l m : List (Nat × Nat)) : layout (l ++ m) = layout l ++ layout m := by
  induction l with
  | nil => rfl
  | cons x l ih =>
    obtain ⟨w, v⟩ := x
    rw [List.cons_append, layout, layout, ih, List.append_assoc]

theorem layout_map {α : Type} (f : α → Nat × Nat) (l : List α) :
    layout (l.map f) = l.flatMap fun x => bytesBE (f x).1 (f x).2 := by
  induction l with
  | nil => rfl
  | cons x l ih => rw [List.map_cons, List.flatMap_cons, ← ih, layout]

/-- A field of one byte is the byte. -/
theorem bytesBE_byte (b : Byte) : bytesBE 1 b.toNat = [b] := by simp [bytesBE]

/-- The number that `n` bytes of a list form, high byte first, from a place on. -/
def numberAt (l : List Byte) (offset : Nat) : Nat → Nat
  | 0 => 0
  | n + 1 => 256 * numberAt l offset n + (l.getD (offset + n) 0).toNat

theorem numberAt_append_left (l m : List Byte) (offset n : Nat) (h : offset + n ≤ l.length) :
    numberAt (l ++ m) offset n = numberAt l offset n := by
  induction n with
  | zero => rfl
  | succ n ih =>
    rw [numberAt, numberAt, ih (by omega), List.getD_append _ _ _ _ (by omega)]

theorem numberAt_append_right (l m : List Byte) (offset n : Nat) :
    numberAt (l ++ m) (l.length + offset) n = numberAt m offset n := by
  induction n with
  | zero => rfl
  | succ n ih =>
    rw [numberAt, numberAt, ih, List.getD_append_right _ _ _ _ (by omega)]
    congr 4
    omega

/-- A number's own bytes form it, modulo what they can hold. -/
theorem numberAt_bytesBE (n v : Nat) : numberAt (bytesBE n v) 0 n = v % 256 ^ n := by
  induction n generalizing v with
  | zero => simp [numberAt, Nat.mod_one]
  | succ n ih =>
    rw [numberAt, bytesBE, numberAt_append_left _ _ _ _ (by simp), ih, List.getD_append_right _ _ _ _ (by simp),
      bytesBE_length, Nat.zero_add, Nat.sub_self, List.getD_cons_zero, BitVec.toNat_ofNat, Nat.pow_succ (m := n),
      Nat.mul_comm (256 ^ n) 256, Nat.mod_mul]
    exact Nat.add_comm _ _

/-- The number at a field's offset is the field's. -/
theorem numberAt_layout (pre : List Byte) (w v : Nat) (rest : List (Nat × Nat)) :
    numberAt (pre ++ layout ((w, v) :: rest)) pre.length w = v % 256 ^ w := by
  rw [← Nat.add_zero pre.length, numberAt_append_right, layout, numberAt_append_left _ _ _ _ (by simp),
    numberAt_bytesBE]

/-- The window's numbers are those of the record its bytes come from. -/
theorem State.windowNumber_eq {s : State} {space index : Nat} {l : List Byte}
    (h : ∀ k, s.windowByte space index k = l.getD k 0) (offset n : Nat) :
    s.windowNumber space index offset n = numberAt l offset n := by
  induction n with
  | zero => rfl
  | succ n ih => rw [State.windowNumber, numberAt, ih, h]

/-- The window shows these fields, one after another, from an offset on. -/
def State.Shows (s : State) (space index : Nat) : Nat → List (Nat × Nat) → Prop
  | _, [] => True
  | offset, (w, v) :: rest =>
    s.windowNumber space index offset w = v % 256 ^ w ∧ s.Shows space index (offset + w) rest

theorem State.shows_from {s : State} {space index : Nat} {l : List Byte}
    (h : ∀ k, s.windowByte space index k = l.getD k 0) (fields : List (Nat × Nat)) (pre : List Byte)
    (hl : l = pre ++ layout fields) : s.Shows space index pre.length fields := by
  induction fields generalizing pre with
  | nil => trivial
  | cons x rest ih =>
    obtain ⟨w, v⟩ := x
    have hrest := ih (pre ++ bytesBE w v) (by rw [hl, layout, List.append_assoc])
    rw [List.length_append, bytesBE_length] at hrest
    exact ⟨by rw [State.windowNumber_eq h, hl, numberAt_layout], hrest⟩

/-- The window shows the fields of a record from its first byte on. -/
theorem State.shows_of {s : State} {space index : Nat} {fields : List (Nat × Nat)}
    (h : ∀ k, s.windowByte space index k = (layout fields).getD k 0) : s.Shows space index 0 fields :=
  State.shows_from h fields [] rfl

/-- The byte of a one-byte field. -/
theorem State.windowByte_of_number {s : State} {space index offset v : Nat}
    (h : s.windowNumber space index offset 1 = v % 256 ^ 1) : s.windowByte space index offset = BitVec.ofNat 8 v := by
  apply BitVec.eq_of_toNat_eq
  simpa [State.windowNumber] using h

/-! ## Entries -/

/-- The fields of an entry's record (R157). -/
def Entry.fields (e : Entry) : List (Nat × Nat) :=
  [(1, e.key.track.volume.val), (2, e.key.track.cylinder), (1, e.key.track.head), (1, e.key.sector), (1, e.status.code),
    (1, flagBit e.busy 0 + flagBit e.voteConfirm 1 + flagBit e.deleted 2 + flagBit e.conflictRecorded 3),
    (1, e.origin.code), (1, e.generation), (2, e.dataLength), (2, e.merged), (2, e.crcGood), (1, e.confirmations),
    (1, e.target), (1, e.conflicts), (1, e.replacements), (2, e.surplus), (2, e.mismatches), (2, e.blank),
    (2, e.contestedCount), (1, e.repair.code), (1, e.contestedList.length)]
    ++ (List.range 8).map (fun k => (2, e.contestedList.getD k 0)) ++ [(2, e.unsearched), (1, 0)]

theorem Entry.record_eq (e : Entry) : e.record = layout e.fields := by
  have hzero : ([0] : List Byte) = bytesBE 1 0 := rfl
  unfold Entry.record
  rewrite [hzero]
  unfold Entry.fields
  simp only [layout_append, layout_map, layout]
  simp only [List.append_assoc, List.append_nil]

theorem State.windowByte_entry {s : State} {i : Nat} {e : Entry} (h : Table.get s.entries i = some e) (k : Nat) :
    s.windowByte 4 i k = (layout e.fields).getD k 0 := by
  rw [← e.record_eq]
  simp only [State.windowByte, h]

/-- R157: the flags byte's bits. -/
theorem flagsByte_getLsbD : ∀ (a b c d : Bool), ∀ k < 8,
    (BitVec.ofNat 8 (flagBit a 0 + flagBit b 1 + flagBit c 2 + flagBit d 3)).getLsbD k = [a, b, c, d].getD k false := by
  decide

/-- R117: a list's three pairs in the candidate view. -/
theorem viewBytes_getD (l : List Candidate) {j : Nat} (hj : j < 3) :
    (viewBytes l).getD (2 * j) 0 = (l[j]?.map (·.value)).getD 0
      ∧ (viewBytes l).getD (2 * j + 1) 0 = (l[j]?.map fun c => BitVec.ofNat 8 c.weight).getD 0 := by
  have hpairs : viewBytes l =
      [(l[0]?.map (·.value)).getD 0, (l[0]?.map fun c => BitVec.ofNat 8 c.weight).getD 0,
        (l[1]?.map (·.value)).getD 0, (l[1]?.map fun c => BitVec.ofNat 8 c.weight).getD 0,
        (l[2]?.map (·.value)).getD 0, (l[2]?.map fun c => BitVec.ofNat 8 c.weight).getD 0] := by
    have hpair (k : Nat) : (match l[k]? with | some c => [c.value, BitVec.ofNat 8 c.weight] | none => [0, 0]) =
        [(l[k]?.map (·.value)).getD 0, (l[k]?.map fun c => BitVec.ofNat 8 c.weight).getD 0] := by
      cases l[k]? <;> rfl
    change (match l[0]? with | some c => [c.value, BitVec.ofNat 8 c.weight] | none => [0, 0])
      ++ ((match l[1]? with | some c => [c.value, BitVec.ofNat 8 c.weight] | none => [0, 0])
      ++ ((match l[2]? with | some c => [c.value, BitVec.ofNat 8 c.weight] | none => [0, 0]) ++ [])) = _
    rw [hpair 0, hpair 1, hpair 2]
    rfl
  rw [hpairs]
  interval_cases j <;> exact ⟨rfl, rfl⟩

/-- R117: the view's byte `m` of position `k`. -/
theorem viewByte_at (e : Entry) (x : Slot) (k : Nat) {m : Nat} (hm : m < 6) :
    viewByte e x (6 * k + m) = if k < e.dataLength + 2 then (viewBytes (x.lists.getD k [])).getD m 0 else 0 := by
  unfold viewByte
  rw [show (6 * k + m) / 6 = k by omega, show (6 * k + m) % 6 = m by omega]

theorem State.windowByte_image {s : State} {i : Nat} {e : Entry} {x : Slot} (he : Table.get s.entries i = some e)
    (hx : Table.get s.slots i = some x) (k : Nat) : s.windowByte 5 i k = imageByte e x k := by
  simp only [State.windowByte, he, hx]

theorem State.windowByte_view {s : State} {i : Nat} {e : Entry} {x : Slot} (he : Table.get s.entries i = some e)
    (hx : Table.get s.slots i = some x) (k : Nat) : s.windowByte 6 i k = viewByte e x k := by
  simp only [State.windowByte, he, hx]

/-- Settles O11: each field of the record at its offset, the image and the view byte by byte. -/
theorem windowShowsEntriesAndTheirSlots : Obligations.WindowShowsEntriesAndTheirSlots := by
  intro s i
  refine ⟨fun hfree offset => ?_, fun e x he hx => ?_⟩
  · unfold State.windowByte
    rw [hfree]
    exact ⟨rfl, rfl, rfl⟩
  · have hfields := State.shows_of (State.windowByte_entry he)
    obtain ⟨hvolume, hcylinder, hhead, hsector, hstatus, hflags, horigin, hgeneration, hlength, hmerged, hgood, hconfirm,
      htarget, hconflicts, hreplaced, hsurplus, hmismatch, hblank, hcontested, hrepair, hlisted, hk0, hk1, hk2, hk3, hk4,
      hk5, hk6, hk7, hunsearched, hlast, -⟩ := hfields
    refine ⟨hvolume.trans (Nat.mod_eq_of_lt (e.key.track.volume.isLt.trans (by decide))), hcylinder, hhead, hsector, ?_,
      fun k hk => ?_, ?_, hgeneration, hlength, hmerged, hgood, hconfirm, htarget, hconflicts, hreplaced, hsurplus,
      hmismatch, hblank, hcontested, ?_, hlisted, fun k hk => ?_, hunsearched, hlast, fun k => ?_, fun k j hj => ?_⟩
    · refine hstatus.trans ?_
      cases e.status <;> rfl
    · have hbyte : s.windowByte 4 i 6 = _ := State.windowByte_of_number hflags
      rw [hbyte]
      exact flagsByte_getLsbD _ _ _ _ k hk
    · refine horigin.trans ?_
      cases e.origin <;> rfl
    · refine hrepair.trans ?_
      cases e.repair <;> rfl
    · interval_cases k
      exacts [hk0, hk1, hk2, hk3, hk4, hk5, hk6, hk7]
    · rw [State.windowByte_image he hx]
      rfl
    · obtain ⟨hvalue, hweight⟩ := viewBytes_getD (x.lists.getD k []) hj
      rw [State.windowByte_view he hx, State.windowByte_view he hx, Nat.add_assoc, viewByte_at e x k (by omega),
        viewByte_at e x k (by omega), hvalue, hweight]
      exact ⟨rfl, rfl⟩

end Sys2Proof.Machine
end

section
/-! SUPPORT. The other records of the window (R179 to R181, R50): their fields, the preset's in-force lanes, and the obligation they
settle. -/

namespace Sys2Proof.Machine

/-! ## Records as fields -/

theorem singleton_byte (b : Byte) : [b] = bytesBE 1 b.toNat := (bytesBE_byte b).symm

/-- A flag that fills a byte. -/
theorem singleton_flag (b : Bool) : [if b then (1 : Byte) else 0] = bytesBE 1 (if b then 1 else 0) := by
  cases b <;> rfl

/-- R179. -/
def Settings.fields (t : Settings) : List (Nat × Nat) :=
  [(1, if t.rotating then 1 else 0), (1, t.grantBurst), (1, t.confirmTarget), (1, t.crcBonus), (1, t.contestMargin),
    (1, t.repairDepth), (1, t.voteQuorum), (1, t.trustFloor), (1, t.seekLimit), (2, t.lowThreshold), (5, 0)]

theorem Settings.record_eq (t : Settings) : t.record = layout t.fields := by
  have hpad : ([0, 0, 0, 0, 0] : List Byte) = bytesBE 5 0 := rfl
  unfold Settings.record
  rewrite [hpad, singleton_flag]
  unfold Settings.fields
  simp only [layout]
  simp only [List.append_assoc, List.append_nil]

/-- R180. -/
def Profile.fields (p : Profile) : List (Nat × Nat) :=
  [(1, p.encoding.code.toNat), (2, p.cellPeriod), (3, p.revPeriod), (2, p.markPattern.toNat), (1, p.markValue.toNat),
    (1, p.markRepeat), (1, p.idMark.toNat), (1, p.dataMark.toNat), (1, p.deletedMark.toNat), (1, p.idLength),
    (1, p.cylPos), (1, p.cylWidth), (1, p.headPos), (1, p.sectorPos), (1, (sizePosByte p.sizePos).toNat), (1, p.lengthCode),
    (1, p.gapLimit), (2, p.crcPreset.toNat), (1, p.crcMarkCount)]

theorem Profile.record_eq (p : Profile) : p.record = layout p.fields := by
  have hmarks : [p.idMark, p.dataMark, p.deletedMark] =
      bytesBE 1 p.idMark.toNat ++ bytesBE 1 p.dataMark.toNat ++ bytesBE 1 p.deletedMark.toNat := by
    rw [bytesBE_byte, bytesBE_byte, bytesBE_byte]
    rfl
  unfold Profile.record
  rewrite [hmarks, singleton_byte p.encoding.code, singleton_byte p.markValue, singleton_byte (sizePosByte p.sizePos)]
  unfold Profile.fields
  simp only [layout]
  simp only [List.append_assoc, List.append_nil]

/-- R180. -/
def Preset.fields (x : Preset) (inForce : Nat) : List (Nat × Nat) :=
  [(1, x.gain), (1, x.tolerance), (1, (BitVec.ofInt 8 x.bias).toNat), (1, inForce)]

theorem Preset.record_eq (x : Preset) (inForce : Nat) : x.record inForce = layout (x.fields inForce) := by
  unfold Preset.record
  rewrite [singleton_byte (BitVec.ofInt 8 x.bias)]
  unfold Preset.fields
  simp only [layout]
  simp only [List.append_assoc, List.append_nil]

/-- R180. -/
def ScheduleState.fields (x : ScheduleState) : List (Nat × Nat) :=
  [(1, x.staged.slotCount), (1, x.staged.frameLength)]
    ++ (List.finRange 16).map (fun k => (1, (x.staged.slots[k]).val))
    ++ [(1, if x.pending then 1 else 0), (1, x.revInSlot)]

theorem ScheduleState.record_eq (x : ScheduleState) : x.record = layout x.fields := by
  have hslots : (x.staged.slots.toList.map fun n => BitVec.ofNat 8 n.val) =
      (List.finRange 16).flatMap fun k => bytesBE 1 (x.staged.slots[k]).val := by
    have hlist : x.staged.slots.toList = (List.finRange 16).map fun k => x.staged.slots[k] := by
      refine List.ext_getElem (by simp) fun k hk _ => ?_
      simp
    rw [hlist, List.map_map, List.map_eq_flatMap]
    rfl
  unfold ScheduleState.record
  rewrite [hslots, singleton_flag]
  unfold ScheduleState.fields
  simp only [layout_append, layout_map, layout]
  simp only [List.append_assoc, List.append_nil]

/-- R181. -/
def Lane.fields (l : Lane) : List (Nat × Nat) :=
  [(1, l.state.code), (1, l.revolutions), (1, l.schedule.slotPosition), (1, l.separator.presetInForce.val),
    (2, l.timing.cauto), (2, l.timing.ceff), (3, l.timing.lastPeriod), (1, if l.chain.isSome then 1 else 0),
    (2, l.counts.attempts), (2, l.counts.overruns), (1, l.counts.queueDiscards), (2, l.counts.unanchored),
    (2, l.counts.idCrcBad), (2, l.counts.dataCrcGood), (2, l.counts.syncLosses), (2, l.counts.codeViolations),
    (2, l.counts.strayMarks), (2, l.counts.orphanIds), (1, l.counts.seekMismatches), (2, l.counts.outOfGeometry),
    (1, l.counts.indexFaults), (2, l.counts.indexGlitches), (1, l.counts.settledByPass),
    (1, flagBit l.timing.speedClamp 0 + flagBit l.counts.degraded 1), (1, outcomeCode l.outcome)]

theorem Lane.report_eq (l : Lane) : l.report = layout l.fields := by
  unfold Lane.report
  rewrite [singleton_flag]
  unfold Lane.fields
  simp only [layout]
  simp only [List.append_assoc, List.append_nil]

/-- R181. -/
def Volume.fields (v : Volume) : List (Nat × Nat) :=
  [(1, if v.isOpen then 1 else 0), (1, v.profile.val), (2, v.cylinders), (1, v.heads), (1, v.firstSector),
    (1, v.sectorsPerTrack), (2, v.live), (2, v.settled), (3, v.released), (2, v.tracksDone), (2, v.tableFull),
    (2, v.surplus)]

theorem Volume.record_eq (v : Volume) : v.record = layout v.fields := by
  unfold Volume.record
  rewrite [singleton_flag]
  unfold Volume.fields
  simp only [layout]
  simp only [List.append_assoc, List.append_nil]

/-- R181. -/
def Track.fields (t : Track) : List (Nat × Nat) :=
  [(1, 1 + flagBit t.done 1), (1, t.key.volume.val), (2, t.key.cylinder), (1, t.key.head), (1, t.settled),
    (1, t.released), (1, t.live), (8, t.releasedSet.toNat)]

theorem Track.record_eq (t : Track) : t.record = layout t.fields := by
  unfold Track.record Track.fields
  simp only [layout]
  simp only [List.append_assoc, List.append_nil]

/-! ## Bytes of the spaces -/

section spaces
variable {s : State}

theorem State.shows_settings (index : Nat) : s.Shows 0 index 0 s.settings.fields :=
  State.shows_of fun k => by simp only [State.windowByte, Settings.record_eq]

theorem State.shows_profile (n : Fin 8) : s.Shows 1 n.val 0 (s.profiles[n]).fields := by
  have hget : s.profiles[n.val]? = some s.profiles[n] := by simp
  exact State.shows_of fun k => by simp only [State.windowByte, hget, Profile.record_eq]

theorem State.shows_preset (n : Fin 16) : s.Shows 2 n.val 0 ((s.presets[n]).fields (s.inForce n.val)) := by
  have hget : s.presets[n.val]? = some s.presets[n] := by simp
  exact State.shows_of fun k => by simp only [State.windowByte, hget, Preset.record_eq]

theorem State.shows_schedule (i : Fin 4) : s.Shows 3 i.val 0 (s.lanes[i]).schedule.fields := by
  have hget : s.lanes[i.val]? = some s.lanes[i] := by simp
  exact State.shows_of fun k => by simp only [State.windowByte, hget, ScheduleState.record_eq]

theorem State.shows_report (i : Fin 4) : s.Shows 7 i.val 0 (s.lanes[i]).fields := by
  have hget : s.lanes[i.val]? = some s.lanes[i] := by simp
  exact State.shows_of fun k => by simp only [State.windowByte, hget, Lane.report_eq]

theorem State.shows_volume (n : Fin 8) : s.Shows 8 n.val 0 (s.volumes[n]).fields := by
  have hget : s.volumes[n.val]? = some s.volumes[n] := by simp
  exact State.shows_of fun k => by simp only [State.windowByte, hget, Volume.record_eq]

theorem State.shows_track {j : Nat} {t : Track} (h : Table.get s.tracks j = some t) : s.Shows 9 j 0 t.fields :=
  State.shows_of fun k => by simp only [State.windowByte, h, Track.record_eq]

/-- R50: a lane's bit in a preset's in-force lanes. -/
theorem State.inForce_getLsbD (n : Fin 16) (i : Fin 4) :
    (BitVec.ofNat 8 (s.inForce n.val)).getLsbD i.val = true ↔
      (s.lanes[i]).state ≠ .idle ∧ (s.lanes[i]).separator.presetInForce = n := by
  have hholds (l : Lane) :
      l.holdsPreset n.val = true ↔ l.state ≠ .idle ∧ l.separator.presetInForce = n := by
    simp [Lane.holdsPreset, Fin.ext_iff]
  unfold State.inForce
  rw [flagsByte_getLsbD _ _ _ _ i.val (by omega), ← hholds]
  fin_cases i <;> rfl

theorem State.inForce_getLsbD_high (n k : Nat) (hk : 4 ≤ k) : (BitVec.ofNat 8 (s.inForce n)).getLsbD k = false := by
  by_cases hlow : k < 8
  · unfold State.inForce
    rw [flagsByte_getLsbD _ _ _ _ k hlow]
    interval_cases k <;> rfl
  · exact BitVec.getLsbD_of_ge _ _ (by omega)

end spaces

/-! ## The obligation -/

section shown
variable (s : State)

theorem State.profile_shown (n : Fin 8) :
    let f := s.profiles[n]
    s.windowNumber 1 n.val 0 1 = (match f.encoding with | .fm => 0 | .mfm => 1 | .gcr => 2)
      ∧ s.windowNumber 1 n.val 1 2 = f.cellPeriod % 65536
      ∧ s.windowNumber 1 n.val 3 3 = f.revPeriod % 16777216
      ∧ s.windowNumber 1 n.val 6 2 = f.markPattern.toNat
      ∧ s.windowByte 1 n.val 8 = f.markValue
      ∧ s.windowNumber 1 n.val 9 1 = f.markRepeat % 256
      ∧ s.windowByte 1 n.val 10 = f.idMark ∧ s.windowByte 1 n.val 11 = f.dataMark
      ∧ s.windowByte 1 n.val 12 = f.deletedMark
      ∧ s.windowNumber 1 n.val 13 1 = f.idLength % 256
      ∧ s.windowNumber 1 n.val 14 1 = f.cylPos % 256 ∧ s.windowNumber 1 n.val 15 1 = f.cylWidth % 256
      ∧ s.windowNumber 1 n.val 16 1 = f.headPos % 256 ∧ s.windowNumber 1 n.val 17 1 = f.sectorPos % 256
      ∧ s.windowNumber 1 n.val 18 1 = (match f.sizePos with | some k => k % 256 | none => 255)
      ∧ s.windowNumber 1 n.val 19 1 = f.lengthCode % 256 ∧ s.windowNumber 1 n.val 20 1 = f.gapLimit % 256
      ∧ s.windowNumber 1 n.val 21 2 = f.crcPreset.toNat
      ∧ s.windowNumber 1 n.val 23 1 = f.crcMarkCount % 256 := by
  have hfields := s.shows_profile n
  generalize s.profiles[n] = f at hfields
  obtain ⟨hcode, hcell, hrev, hpattern, hvalue, hrepeat, hidMark, hdata, hdeleted, hlength, hcyl, hwidth, hhead, hsector,
    hsize, hcode', hgap, hpreset, hmarks, -⟩ := hfields
  have hbyte {offset : Nat} {b : Byte} (h : s.windowNumber 1 n.val offset 1 = b.toNat % 256 ^ 1) :
      s.windowByte 1 n.val offset = b := (State.windowByte_of_number h).trans (BitVec.ofNat_toNat 8 b)
  have hword (w : Word) : w.toNat % 256 ^ 2 = w.toNat := Nat.mod_eq_of_lt w.isLt
  refine ⟨hcode.trans ?_, hcell, hrev, hpattern.trans (hword _), hbyte hvalue, hrepeat, hbyte hidMark, hbyte hdata,
    hbyte hdeleted, hlength, hcyl, hwidth, hhead, hsector, hsize.trans ?_, hcode', hgap, hpreset.trans (hword _), hmarks⟩
  · cases f.encoding <;> rfl
  · cases f.sizePos with
    | none => rfl
    | some k => simp [sizePosByte]

theorem State.schedule_shown (i : Fin 4) :
    let x := (s.lanes[i]).schedule
    s.windowNumber 3 i.val 0 1 = x.staged.slotCount % 256
      ∧ s.windowNumber 3 i.val 1 1 = x.staged.frameLength % 256
      ∧ (∀ k : Fin 16, s.windowNumber 3 i.val (2 + k.val) 1 = (x.staged.slots[k]).val)
      ∧ s.windowNumber 3 i.val 18 1 = (if x.pending then 1 else 0)
      ∧ s.windowNumber 3 i.val 19 1 = x.revInSlot % 256 := by
  have hfields := s.shows_schedule i
  generalize (s.lanes[i]).schedule = x at hfields
  obtain ⟨hcount, hframe, h0, h1, h2, h3, h4, h5, h6, h7, h8, h9, h10, h11, h12, h13, h14, h15, hpending, hrev, -⟩ :=
    hfields
  refine ⟨hcount, hframe, fun k => ?_, hpending.trans (by cases x.pending <;> rfl), hrev⟩
  have hslot : s.windowNumber 3 i.val (2 + k.val) 1 = (x.staged.slots[k]).val % 256 ^ 1 := by
    fin_cases k
    exacts [h0, h1, h2, h3, h4, h5, h6, h7, h8, h9, h10, h11, h12, h13, h14, h15]
  exact hslot.trans (Nat.mod_eq_of_lt ((x.staged.slots[k]).isLt.trans (by decide)))

theorem State.report_shown (i : Fin 4) :
    let l := s.lanes[i]
    s.windowNumber 7 i.val 0 1 =
        (match l.state with | .idle => 0 | .armed => 1 | .capturing => 2 | .finishing => 3 | .draining => 4)
      ∧ s.windowNumber 7 i.val 1 1 = l.revolutions % 256
      ∧ s.windowNumber 7 i.val 2 1 = l.schedule.slotPosition % 256
      ∧ s.windowNumber 7 i.val 3 1 = l.separator.presetInForce.val
      ∧ s.windowNumber 7 i.val 4 2 = l.timing.cauto % 65536
      ∧ s.windowNumber 7 i.val 6 2 = l.timing.ceff % 65536
      ∧ s.windowNumber 7 i.val 8 3 = l.timing.lastPeriod % 16777216
      ∧ s.windowNumber 7 i.val 11 1 = (if l.chain.isSome then 1 else 0)
      ∧ s.windowNumber 7 i.val 12 2 = l.counts.attempts % 65536
      ∧ s.windowNumber 7 i.val 14 2 = l.counts.overruns % 65536
      ∧ s.windowNumber 7 i.val 16 1 = l.counts.queueDiscards % 256
      ∧ s.windowNumber 7 i.val 17 2 = l.counts.unanchored % 65536
      ∧ s.windowNumber 7 i.val 19 2 = l.counts.idCrcBad % 65536
      ∧ s.windowNumber 7 i.val 21 2 = l.counts.dataCrcGood % 65536
      ∧ s.windowNumber 7 i.val 23 2 = l.counts.syncLosses % 65536
      ∧ s.windowNumber 7 i.val 25 2 = l.counts.codeViolations % 65536
      ∧ s.windowNumber 7 i.val 27 2 = l.counts.strayMarks % 65536
      ∧ s.windowNumber 7 i.val 29 2 = l.counts.orphanIds % 65536
      ∧ s.windowNumber 7 i.val 31 1 = l.counts.seekMismatches % 256
      ∧ s.windowNumber 7 i.val 32 2 = l.counts.outOfGeometry % 65536
      ∧ s.windowNumber 7 i.val 34 1 = l.counts.indexFaults % 256
      ∧ s.windowNumber 7 i.val 35 2 = l.counts.indexGlitches % 65536
      ∧ s.windowNumber 7 i.val 37 1 = l.counts.settledByPass % 256
      ∧ s.windowNumber 7 i.val 38 1 =
          (if l.timing.speedClamp then 1 else 0)
            + (if 0 < l.counts.overruns ∨ 0 < l.counts.syncLosses ∨ 0 < l.counts.codeViolations then 2 else 0)
      ∧ s.windowNumber 7 i.val 39 1 =
          (match l.outcome with
            | none => 0 | some .complete => 1 | some .aborted => 2 | some .noIndex => 3
            | some .seekMismatch => 4) := by
  have hfields := s.shows_report i
  generalize s.lanes[i] = l at hfields
  obtain ⟨hstate, hrevs, hslot, hpreset, hcauto, hceff, hperiod, hchain, hattempts, hoverruns, hdiscards, hunanchored, hidBad,
    hgood, hlosses, hviolations, hstray, horphans, hseek, hgeometry, hfaults, hglitches, hsettled, hflags, houtcome, -⟩ :=
    hfields
  refine ⟨hstate.trans ?_, hrevs, hslot, hpreset.trans (Nat.mod_eq_of_lt (l.separator.presetInForce.isLt.trans (by decide))),
    hcauto, hceff, hperiod, hchain.trans (by cases l.chain <;> rfl), hattempts, hoverruns, hdiscards, hunanchored, hidBad,
    hgood, hlosses, hviolations, hstray, horphans, hseek, hgeometry, hfaults, hglitches, hsettled, hflags.trans ?_,
    houtcome.trans ?_⟩
  · cases l.state <;> rfl
  · have hdegraded : l.counts.degraded = true ↔
        0 < l.counts.overruns ∨ 0 < l.counts.syncLosses ∨ 0 < l.counts.codeViolations := by
      simp [Counts.degraded, or_assoc]
    simp only [← hdegraded]
    cases l.timing.speedClamp <;> cases l.counts.degraded <;> rfl
  · cases l.outcome with
    | none => rfl
    | some c => cases c <;> rfl

theorem State.volume_shown (n : Fin 8) :
    let v := s.volumes[n]
    s.windowNumber 8 n.val 0 1 = (if v.isOpen then 1 else 0) ∧ s.windowNumber 8 n.val 1 1 = v.profile.val
      ∧ s.windowNumber 8 n.val 2 2 = v.cylinders % 65536 ∧ s.windowNumber 8 n.val 4 1 = v.heads % 256
      ∧ s.windowNumber 8 n.val 5 1 = v.firstSector % 256
      ∧ s.windowNumber 8 n.val 6 1 = v.sectorsPerTrack % 256
      ∧ s.windowNumber 8 n.val 7 2 = v.live % 65536 ∧ s.windowNumber 8 n.val 9 2 = v.settled % 65536
      ∧ s.windowNumber 8 n.val 11 3 = v.released % 16777216
      ∧ s.windowNumber 8 n.val 14 2 = v.tracksDone % 65536
      ∧ s.windowNumber 8 n.val 16 2 = v.tableFull % 65536 ∧ s.windowNumber 8 n.val 18 2 = v.surplus % 65536 := by
  have hfields := s.shows_volume n
  generalize s.volumes[n] = v at hfields
  obtain ⟨hopen, hprofile, hcylinders, hheads, hfirst, hper, hlive, hsettled, hreleased, hdone, hfull, hsurplus, -⟩ := hfields
  exact ⟨hopen.trans (by cases v.isOpen <;> rfl), hprofile.trans (Nat.mod_eq_of_lt (v.profile.isLt.trans (by decide))),
    hcylinders, hheads, hfirst, hper, hlive, hsettled, hreleased, hdone, hfull, hsurplus⟩

end shown

/-- Settles O12: each record's fields at their offsets, and the in-force lanes bit by bit. -/
theorem windowShowsTheOtherRecords : Obligations.WindowShowsTheOtherRecords := by
  intro s
  refine ⟨?_, s.profile_shown, fun n => ?_, s.schedule_shown, s.report_shown, s.volume_shown,
    fun j => ⟨fun hfree offset => ?_, fun t ht => ?_⟩⟩
  · obtain ⟨hrotating, hburst, htarget, hbonus, hmargin, hdepth, hquorum, hfloor, hseek, hlow, hpad, -⟩ :=
      s.shows_settings 0
    exact ⟨hrotating.trans (by cases s.settings.rotating <;> rfl), hburst, htarget, hbonus, hmargin, hdepth, hquorum, hfloor,
      hseek, hlow, hpad⟩
  · obtain ⟨hgain, htolerance, hbias, hforce, -⟩ := s.shows_preset n
    have hbiasByte : s.windowByte 2 n.val 2 = _ := State.windowByte_of_number hbias
    have hforceByte : s.windowByte 2 n.val 3 = _ := State.windowByte_of_number hforce
    refine ⟨hgain, htolerance, hbiasByte.trans (BitVec.ofNat_toNat 8 _), fun i => ?_, fun k hk => ?_⟩
    · rw [hforceByte]
      exact State.inForce_getLsbD n i
    · rw [hforceByte]
      exact State.inForce_getLsbD_high n.val k hk
  · simp only [State.windowByte, hfree]
  · obtain ⟨hflags, hvolume, hcylinder, hhead, hsettled, hreleased, hlive, hset, -⟩ := State.shows_track ht
    exact ⟨hflags.trans (by cases t.done <;> rfl), hvolume.trans (Nat.mod_eq_of_lt (t.key.volume.isLt.trans (by decide))),
      hcylinder, hhead, hsettled, hreleased, hlive, hset.trans (Nat.mod_eq_of_lt t.releasedSet.isLt)⟩

end Sys2Proof.Machine
end

section
/-! SUPPORT. Bytes written through the window (R49, R53, R178, R179), bytes read through it (R172, R173, R176, R177), and the
view of the entry in hand during a merge (R117, R120): the obligations they settle. -/

namespace Sys2Proof.Machine

/-! ## A byte written into the settings block -/

/-- R179: a byte written into the settings block is stored in it. -/
theorem execSettingsWrite_stores {s : State} {p : PortId} {out : List Byte} {index offset : Nat}
    (hw : s.writingAt p out 0 index offset) {b : Byte} {f : Settings} (hf : s.settings.write offset b = f) :
    execSettingsWrite p b s = .next (({ s with settings := f }).wroteByte p out .ok) := by
  refine congrArg Host.Outcome.next (State.onWindowWrite_at hw _ ?_ (by cases p <;> rfl))
  simp [← hf]

/-- Settles O13: the stored field is found by the split of `Settings.write` on the byte's place. -/
theorem settingsBytesAreStoredAndClamped : Obligations.SettingsBytesAreStoredAndClamped := by
  refine ⟨fun p s out index offset b hlow hw => execSettingsWrite_stores hw ?_, rfl⟩
  generalize s.settings = f at hlow ⊢
  have hword : f.lowThreshold < 65536 := by omega
  unfold Settings.write
  split
  -- the flag
  case h_1 => simp [bne, Bool.beq_eq_decide_eq]
  -- the two-byte threshold, clamped as a whole
  case h_10 => simp [setByte_one_of_lt b hword, clampNat_eq]
  case h_11 => simp [setByte_zero, clampNat_eq]
  -- no byte of a field
  case h_12 => simp_all
  -- the clamped one-byte fields
  all_goals simp [clampNat_eq]

/-! ## A byte written into a preset, a schedule or a read-only space -/

/-- R49: a byte written into a preset is stored in it. -/
theorem execPresetWrite_stores {s : State} {p : PortId} {out : List Byte} {n : Fin 16} {offset : Nat}
    (hw : s.writingAt p out 2 n.val offset) {b : Byte} {x : Preset} (hx : (s.presets[n]).write offset b = x) :
    execPresetWrite p b s = .next (({ s with presets := s.presets.set n x }).wroteByte p out .ok) := by
  refine congrArg Host.Outcome.next (State.onWindowWrite_at hw _ ?_ (by cases p <;> rfl))
  simp [finOf_eq n rfl, ← hx]

/-- R53: a byte written into a schedule record is stored in the lane's staged copy. -/
theorem execScheduleWrite_stores {s : State} {p : PortId} {out : List Byte} {i : Fin 4} {offset : Nat}
    (hw : s.writingAt p out 3 i.val offset) {b : Byte} {x : ScheduleState}
    (hx : (s.lanes[i]).schedule.write offset b = x) :
    execScheduleWrite p b s = .next ((s.setLane i { s.lanes[i] with schedule := x }).wroteByte p out .ok) := by
  refine congrArg Host.Outcome.next (State.onWindowWrite_at hw _ ?_ (by cases p <;> rfl))
  simp [finOf_eq i rfl, ← hx]

theorem slotPreset_eq (b : Byte) : slotPreset b = Fin.ofNat 16 (min 15 b.toNat) := by
  apply Fin.ext
  unfold slotPreset
  split <;> simp [Fin.ofNat] <;> omega

/-- R49: a bias is stored clamped to −4 to 4. -/
theorem clampedBias_eq (v : Int) :
    (if v < -4 then -4 else if 4 < v then 4 else v) = max (-4) (min 4 v) := by
  split <;> [skip; split] <;> omega

theorem Preset.write_eq (x : Preset) (offset : Nat) (b : Byte) :
    x.write offset b =
      if offset = 0 then { x with gain := min 4 b.toNat }
      else if offset = 1 then { x with tolerance := min 3 b.toNat }
      else if offset = 2 then { x with bias := max (-4) (min 4 b.toInt) }
      else x := by
  unfold Preset.write
  split
  case h_1 | h_2 => simp [clampNat_eq]
  case h_3 => simp [clampedBias_eq]
  case h_4 => simp_all

theorem ScheduleState.write_eq (x : ScheduleState) (offset : Nat) (b : Byte) :
    x.write offset b =
      if offset = 0 then
        { x with staged := { x.staged with slotCount := max 1 (min 16 b.toNat) }, pending := true }
      else if offset = 1 then
        { x with staged := { x.staged with frameLength := max 1 b.toNat }, pending := true }
      else if offset < 18 then
        { x with
          staged :=
            { x.staged with
              slots := x.staged.slots.setIfInBounds (offset - 2) (Fin.ofNat 16 (min 15 b.toNat)) }
          pending := true }
      else x := by
  unfold ScheduleState.write
  split
  case h_1 => simp [clampNat_eq]
  case h_2 => simp [clampNat_byte]
  case h_3 k =>
    have hplace : k + 1 + 1 < 18 ↔ k < 16 := by omega
    simp [slotPreset_eq, hplace]

/-- R178: a byte written into a read-only space is discarded with REFUSED. -/
theorem execWindowByteWrite_readOnly {s : State} {p : PortId} {out : List Byte} {space index offset : Nat}
    (hspace : 4 ≤ space) (hw : s.writingAt p out space index offset) (b : Byte) :
    execWindowByteWrite p b s = .next (s.wroteByte p out .refused) := by
  have hwrite := State.onWindowWrite_at hw (fun space _ _ => if 4 ≤ space then some (s, .refused) else none)
    (if_pos hspace) rfl
  obtain ⟨hphase, hcursor⟩ := hw
  unfold execWindowByteWrite
  simp only [hphase, hcursor, Phase.isWriting, hwrite]

/-- R177: a byte written at a space's end position is discarded with RANGE. -/
theorem execWindowByteWrite_end {s : State} {p : PortId} {out : List Byte} {space : Nat}
    (hphase : (s.port p).phase = .writing out) (hcursor : (s.port p).cursor = .endOf space) (b : Byte) :
    execWindowByteWrite p b s =
      .next (s.setPort p
        { s.port p with
          lastResult := if (s.port p).lastResult = .ok then .range else (s.port p).lastResult
          phase := .writing (out ++ [0]) }) := by
  unfold execWindowByteWrite
  simp [hphase, hcursor, Phase.isWriting, Port.windowStep, Port.advance, Cursor.next, ResultCode.note, Phase.shiftOut]

/-- Settles O15: each space's write is stored by its record's own write, told apart by the byte's place. -/
theorem presetScheduleAndReadOnlyBytes : Obligations.PresetScheduleAndReadOnlyBytes := by
  intro p s out offset b
  exact ⟨fun n hw => execPresetWrite_stores hw (Preset.write_eq _ offset b),
    fun i hw => execScheduleWrite_stores hw (ScheduleState.write_eq _ offset b),
    fun space index place hspace hw => execWindowByteWrite_readOnly hspace hw b,
    fun space hphase hcursor => execWindowByteWrite_end hphase hcursor b⟩

/-! ## Reading -/

/-- A read of anything but the view of the entry in hand during its merge finds the tables as they stand. -/
theorem State.beforeRead_still {s : State} {space index : Nat}
    (h : ∀ h, s.engine.hand = some h → s.engine.phase = .merge → space = 6 → index ≠ h.entry) :
    s.beforeRead space index = s := by
  unfold State.beforeRead
  split
  next g hphase hhand => exact if_neg fun hview => h g hhand hphase hview.1 hview.2
  next => rfl

/-- R172, R177: a byte read at the cursor. -/
theorem execWindowByteRead_point {s : State} {p : PortId} {out : List Byte} {space index offset : Nat}
    (hphase : (s.port p).phase = .reading out) (hcursor : (s.port p).cursor = .point space index offset) :
    execWindowByteRead p s =
      .next ((s.beforeRead space index).setPort p
        (((s.beforeRead space index).port p).windowStep
          ((s.beforeRead space index).windowByte space index offset) .ok)) := by
  unfold execWindowByteRead
  simp [hphase, hcursor, Phase.isReading]

/-- R177: a read at a space's end position. -/
theorem execWindowByteRead_end {s : State} {p : PortId} {out : List Byte} {space : Nat}
    (hphase : (s.port p).phase = .reading out) (hcursor : (s.port p).cursor = .endOf space) :
    execWindowByteRead p s = .next (s.setPort p ((s.port p).windowStep 0xFF .range)) := by
  unfold execWindowByteRead
  simp [hphase, hcursor, Phase.isReading]

theorem ResultCode.note_ok (r : ResultCode) : r.note .ok = r := by cases r <;> rfl

/-- Settles O9: a read that meets no merge finds the tables as they stand, and the cursor moves by R177. -/
theorem windowReadsFollowTheCursor : Obligations.WindowReadsFollowTheCursor := by
  refine ⟨by decide, by decide, fun p s => ⟨fun hready => ?_, fun out hphase => ⟨?_, ?_⟩⟩⟩
  · have hawaits := State.awaits_of_ready hready
    exact ⟨congrArg Host.Outcome.next (if_pos hawaits), congrArg Host.Outcome.next (if_pos hawaits)⟩
  · intro space index offset hcursor hstill
    refine (execWindowByteRead_point hphase hcursor).trans ?_
    rw [State.beforeRead_still hstill]
    simp [Port.windowStep, Port.advance, hphase, hcursor, Phase.shiftOut, Cursor.next, ResultCode.note_ok]
  · intro space hcursor
    refine (execWindowByteRead_end hphase hcursor).trans ?_
    simp [Port.windowStep, Port.advance, hphase, hcursor, Phase.shiftOut, Cursor.next, ResultCode.note]

/-! ## The view of the entry in hand -/

/-- R120: a stretch of the merge updates every position from where it stood to where it has come, each by its own byte
and weight. -/
theorem State.advanceMerge_lists {s : State} {h : Hand} {x : Slot} (hslot : Table.get s.slots h.entry = some x)
    (ha : h.attempt.Whole) (upTo : Nat) :
    ∃ y, Table.get (s.advanceMerge h upTo).slots h.entry = some y ∧ y.witness = x.witness ∧ y.image = x.image
      ∧ (∀ j, j ≠ h.entry → Table.get (s.advanceMerge h upTo).slots j = Table.get s.slots j)
      ∧ ∀ k < h.attempt.dataLength + 2,
          y.lists[k]? =
            if s.engine.written ≤ k ∧ k < (s.advanceMerge h upTo).engine.written then
              x.lists[k]?.map (updateList (h.attempt.bytes.getD k 0)
                (byteWeight s.engine.bonus h.attempt.crcGood (h.attempt.confidences.getD k 0)))
            else x.lists[k]? := by
  obtain ⟨hbytes, hconfidences⟩ := ha
  unfold State.advanceMerge
  simp only [hslot]
  refine ⟨_, Table.get_put_same _ _ _, rfl, rfl, fun j hj => Table.get_put_ne _ _ _ _ hj, fun k hk => ?_⟩
  rw [mergeRange_get _ _ _ _ _ _ _ k (hbytes ▸ hk) (hconfidences ▸ hk)]
  congr 1
  simp only [Nat.zero_add, eq_iff_iff]
  omega

/-- R117, R120: before the view of the entry in hand is read, the merge has come some way on, and nothing else has
happened. -/
theorem State.beforeRead_view {s : State} {h : Hand} (hmerge : s.engine.phase = .merge)
    (hhand : s.engine.hand = some h) :
    ∃ upTo, s.beforeRead 6 h.entry =
      { s with
        slots := (s.advanceMerge h upTo).slots
        engine :=
          { s.engine with
            written := (s.advanceMerge h upTo).engine.written, freeCount := s.engine.freeCount + 1 } } := by
  refine ⟨Config.mergeProgress s.engine.freeCount, ?_⟩
  obtain ⟨hframe, -⟩ := State.advanceMerge_frame s h (Config.mergeProgress s.engine.freeCount)
  have hview : s.beforeRead 6 h.entry =
      { s.advanceMerge h (Config.mergeProgress s.engine.freeCount) with
        engine :=
          { (s.advanceMerge h (Config.mergeProgress s.engine.freeCount)).engine with
            freeCount := s.engine.freeCount + 1 } } := by
    unfold State.beforeRead
    simp only [hmerge, hhand, and_self, if_true]
  exact hview.trans <| congrArg (fun t => { t with engine := { t.engine with freeCount := s.engine.freeCount + 1 } }) hframe

/-- Settles O10: the view is read after a stretch of the merge, which ends at a free value. -/
theorem aBusyViewShowsOldOrMergedLists : Obligations.ABusyViewShowsOldOrMergedLists := by
  intro p s out h e x offset hwhole hphase hmerge hhand he hx hcursor
  obtain ⟨-, hslots, hfits⟩ := hwhole
  obtain ⟨ha, hlength⟩ := hfits h hhand
  obtain ⟨x', hx', hwholeSlot, -, -⟩ := hslots h.entry e he
  obtain rfl : x' = x := Option.some.inj (hx'.symm.trans hx)
  obtain ⟨upTo, hbefore⟩ := State.beforeRead_view hmerge hhand
  obtain ⟨y, hy, hwitness, himage, hothers, hlists⟩ := State.advanceMerge_lists hx ha upTo
  obtain ⟨-, hon⟩ := State.advanceMerge_frame s h upTo
  generalize (s.advanceMerge h upTo).slots = slots at *
  generalize (s.advanceMerge h upTo).engine.written = written at *
  have hport : (s.beforeRead 6 h.entry).port p = s.port p := by rw [hbefore]; cases p <;> rfl
  have hread := execWindowByteRead_point hphase hcursor
  rw [hport, hbefore] at hread
  refine ⟨_, y, hread, ?_, ?_, ?_, ?_, ?_, ?_, hwitness, himage, ?_, fun k hk => ?_⟩
  · cases p <;> rfl
  · cases p <;> rfl
  · cases p <;> rfl
  · rw [State.setPort_port_same]
    simp [Port.windowStep, Port.advance, hphase, Phase.shiftOut, ResultCode.note_ok, State.windowByte, he, hy]
  · cases p <;> exact hy
  · cases p <;> exact hothers
  · cases p <;> exact hon
  · have hlist : x'.lists[k]? = some (x'.lists.getD k []) := by
      rw [List.getD_eq_getElem?_getD, List.getElem?_eq_getElem (hwholeSlot ▸ hk)]
      rfl
    have hlistk := hlists k (hlength e he ▸ hk)
    rw [hlist, Option.map_some] at hlistk
    rw [hlist]
    cases p <;> exact hlistk

end Sys2Proof.Machine
end

section
/-! SUPPORT. CLOSE VOLUME (R97), POST PASS (R59, R60, R62) and ABORT PASS (R70, R71, R92): a lemma for each test and for the
command past them, and the obligations they settle. -/

namespace Sys2Proof.Machine

/-! ## CLOSE VOLUME -/

theorem Lane.names_iff {l : Lane} {v : Fin 8} :
    l.names v = true ↔ ∃ d : Descriptor, (l.active = some d ∨ l.chain = some d) ∧ d.volume = v := by
  unfold Lane.names
  cases l.active <;> cases l.chain <;> simp [or_and_right, exists_or]

theorem Engine.holdsVolume_iff {e : Engine} {v : Fin 8} :
    e.holdsVolume v = true ↔ ∃ h, e.hand = some h ∧ h.attempt.key.track.volume = v := by
  unfold Engine.holdsVolume
  cases e.hand <;> simp

/-- R97: the volumes that a descriptor or the attempt in hand names. -/
theorem State.volumeBusy_iff {s : State} {v : Fin 8} :
    s.volumeBusy v = true ↔
      (∃ (i : Fin 4) (d : Descriptor), ((s.lanes[i]).active = some d ∨ (s.lanes[i]).chain = some d) ∧ d.volume = v)
        ∨ ∃ h, s.engine.hand = some h ∧ h.attempt.key.track.volume = v := by
  have hlanes : (s.lanes.toList.any fun l => l.names v) = true ↔ ∃ i : Fin 4, (s.lanes[i]).names v = true := by
    rw [List.any_eq_true]
    constructor
    · rintro ⟨l, hmem, hnames⟩
      obtain ⟨k, hk, rfl⟩ := Vector.mem_iff_getElem.1 (Vector.mem_toList_iff.1 hmem)
      exact ⟨⟨k, hk⟩, hnames⟩
    · rintro ⟨i, hnames⟩
      exact ⟨s.lanes[i], Vector.mem_toList_iff.2 (Vector.getElem_mem i.isLt), hnames⟩
  rw [State.volumeBusy, Bool.or_eq_true, hlanes, Engine.holdsVolume_iff]
  simp only [Lane.names_iff]

section closeVolume

variable {s : State}

/-- R97: a volume number out of range. -/
theorem State.closeVolume_noVolume {volume : Nat} (h : 7 < volume) : s.closeVolume volume = ⟨.range, [], s⟩ := by
  simp [State.closeVolume, finOf_none (k := 8) h]

variable {v : Fin 8}

/-- R97: a volume that is not OPEN. -/
theorem State.closeVolume_notOpen (h : (s.volumes[v]).isOpen = false) :
    s.closeVolume v.val = ⟨.refused, [], s⟩ := by
  simp [-Fin.getElem_fin, State.closeVolume, finOf_eq v rfl, h]

/-- R97: a volume with work of its own. -/
theorem State.closeVolume_busy (hopen : (s.volumes[v]).isOpen = true) (h : s.volumeBusy v = true) :
    s.closeVolume v.val = ⟨.busy, [], s⟩ := by
  simp [-Fin.getElem_fin, State.closeVolume, finOf_eq v rfl, hopen, h]

/-- R97: an OPEN volume without work is closed. -/
theorem State.closeVolume_closes (hopen : (s.volumes[v]).isOpen = true) (h : s.volumeBusy v = false) :
    s.closeVolume v.val = ⟨.ok, [], s.closeNow v⟩ := by
  simp [-Fin.getElem_fin, State.closeVolume, finOf_eq v rfl, hopen, h]

/-- The entries that a closing frees are those of its volume. -/
theorem length_filter_complement {α : Type} (p : α → Bool) (l : List α) :
    l.length - (l.filter fun x => !p x).length = (l.filter p).length := by
  have := List.length_eq_length_filter_add (l := l) p
  omega

/-- R97, R110: the state that a closing leaves. -/
theorem State.closeNow_eq (s : State) (v : Fin 8) :
    s.closeNow v =
      { s with
        entries := s.entries.filter fun e => e.2.key.track.volume != v
        tracks := s.tracks.filter fun t => t.2.key.volume != v
        volumes := s.volumes.set v { s.volumes[v] with isOpen := false, live := 0, settled := 0 }
        freeEntries := s.freeEntries + (s.entries.filter fun e => e.2.key.track.volume == v).length
        lowWarning :=
          if (s.entries.filter fun e => e.2.key.track.volume == v).length ≠ 0
              ∧ s.settings.lowThreshold ≤
                s.freeEntries + (s.entries.filter fun e => e.2.key.track.volume == v).length then false
          else s.lowWarning } := by
  have hfreed : s.entries.length - (s.entries.filter fun e => e.2.key.track.volume != v).length =
      (s.entries.filter fun e => e.2.key.track.volume == v).length :=
    length_filter_complement (fun e : Nat × Entry => e.2.key.track.volume == v) s.entries
  unfold State.closeNow
  dsimp only
  rw [hfreed]
  rfl

end closeVolume

/-- A CLOSE VOLUME taken answers with its reply. -/
theorem exec_closeVolume {p : PortId} {volume : Byte} {s t : State} {r : ResultCode} {bytes : List Byte}
    (hready : s.ready p) (hreply : s.closeVolume volume.toNat = ⟨r, bytes, t⟩) :
    exec (.closeVolume p volume) s = .next (t.answered p r bytes) :=
  congrArg Host.Outcome.next (State.onCommand_answers hready _ hreply)

/-- Settles O17: each test is a lemma of its own; the volume without work is closed. -/
theorem closeVolumeTestsAndFrees : Obligations.CloseVolumeTestsAndFrees := by
  intro p volume s hready
  refine ⟨fun h => exec_closeVolume hready (State.closeVolume_noVolume h), fun v hv => ?_⟩
  refine ⟨fun hfree => exec_closeVolume hready (hv ▸ State.closeVolume_notOpen hfree),
    fun hopen hwork => exec_closeVolume hready (hv ▸ State.closeVolume_busy hopen (State.volumeBusy_iff.2 hwork)),
    fun hopen hlanes hengine => ?_⟩
  have hidle : s.volumeBusy v = false := by
    rw [Bool.eq_false_iff, ne_eq, State.volumeBusy_iff]
    rintro (⟨i, d, hd, hvolume⟩ | ⟨h, hhand, hvolume⟩)
    · exact hlanes i d hd hvolume
    · exact hengine h hhand hvolume
  intro freed
  rw [exec_closeVolume hready (hv ▸ State.closeVolume_closes hopen hidle), State.closeNow_eq]

/-! ## POST PASS -/

theorem heldOverride_eq (v : Nat) : heldOverride v = if v = 0 then none else some (max 640 (min 6400 v)) := by
  simp [heldOverride, clampNat_eq]

theorem finOf_eq_ofNat (n : Nat) : finOf 16 n = if n < 16 then some (Fin.ofNat 16 n) else none := by
  unfold finOf
  split
  next h => exact congrArg some (Fin.ext (Nat.mod_eq_of_lt h).symm)
  next => rfl

section postPass

variable {s : State} {laneVolume cylinder head revolutions settle selector cellOverride : Nat}

/-- R59: an argument out of range. -/
theorem State.postPass_outOfRange
    (h : 3 < laneVolume / 16 ∨ 7 < laneVolume % 16 ∨ revolutions = 0 ∨ 63 < revolutions ∨ 7 < settle ∨ 16 < selector) :
    s.postPass laneVolume cylinder head revolutions settle selector cellOverride = ⟨.range, [], s⟩ := by
  unfold State.postPass
  split
  next i v hi hv =>
    have hlane := finOf_some hi
    have hvolume := finOf_some hv
    have hout : ¬ (1 ≤ revolutions ∧ revolutions ≤ 63 ∧ settle ≤ 7 ∧ selector ≤ 16) := by omega
    rw [if_pos]
    simp only [Bool.not_eq_true', Bool.eq_false_iff, ne_eq, Bool.and_eq_true, decide_eq_true_eq]
    tauto
  next => rfl

variable {i : Fin 4} {v : Fin 8}

/-- R59: with the first four arguments in range, the volume's state, its geometry and the lane decide. -/
theorem State.postPass_eq (hplace : laneVolume = 16 * i.val + v.val) (hlow : 1 ≤ revolutions) (hhigh : revolutions ≤ 63)
    (hsettle : settle ≤ 7) (hselector : selector ≤ 16) :
    s.postPass laneVolume cylinder head revolutions settle selector cellOverride =
      if (s.volumes[v]).isOpen = true then
        if cylinder < (s.volumes[v]).cylinders ∧ head < (s.volumes[v]).heads then
          s.placePass i (descriptorOf v cylinder head revolutions settle selector cellOverride)
        else ⟨.range, [], s⟩
      else ⟨.refused, [], s⟩ := by
  have hlane : finOf 4 (laneVolume / 16) = some i := finOf_eq i (by omega)
  have hvolume : finOf 8 (laneVolume % 16) = some v := finOf_eq v (by omega)
  unfold State.postPass
  simp only [hlane, hvolume, hlow, hhigh, hsettle, hselector, decide_true, Bool.and_self, Bool.not_true,
    Bool.false_eq_true, if_false]
  cases (s.volumes[v]).isOpen
  · simp
  · simp only [Bool.not_true, Bool.false_eq_true, if_false, if_true, ← Bool.decide_and]
    by_cases hin : cylinder < (s.volumes[v]).cylinders ∧ head < (s.volumes[v]).heads
    · simp only [hin, and_self, decide_true, Bool.not_true, Bool.false_eq_true, if_false, if_true]
    · simp only [hin, decide_false, Bool.not_false, if_false, if_true]

theorem State.placePass_idle {d : Descriptor} (h : (s.lanes[i]).state = .idle) :
    s.placePass i d = ⟨.ok, [], s.activate i d⟩ := if_pos h

theorem State.placePass_busy {d : Descriptor} (h : (s.lanes[i]).state ≠ .idle) (hchain : (s.lanes[i]).chain ≠ none) :
    s.placePass i d = ⟨.busy, [], s⟩ := by
  rw [State.placePass, if_neg h, if_pos (Option.isSome_iff_ne_none.2 hchain)]

theorem State.placePass_chains {d : Descriptor} (h : (s.lanes[i]).state ≠ .idle) (hchain : (s.lanes[i]).chain = none) :
    s.placePass i d = ⟨.ok, [], s.setLane i { s.lanes[i] with chain := some d }⟩ := by
  rw [State.placePass, if_neg h, if_neg (by rw [hchain]; decide)]

end postPass

/-- A POST PASS taken answers with its reply. -/
theorem exec_postPass {p : PortId} {laneVolume head revolutions settle selector : Byte} {cylinder cellOverride : Word}
    {s t : State} {r : ResultCode} {bytes : List Byte} (hready : s.ready p)
    (hreply : s.postPass laneVolume.toNat cylinder.toNat head.toNat revolutions.toNat settle.toNat selector.toNat
      cellOverride.toNat = ⟨r, bytes, t⟩) :
    exec (.postPass p laneVolume cylinder head revolutions settle selector cellOverride) s =
      .next (t.answered p r bytes) :=
  congrArg Host.Outcome.next (State.onCommand_answers hready _ hreply)

/-- Settles O18: the argument ranges decide first, then the volume's state and geometry, then the lane. -/
theorem postPassTestsAndChains : Obligations.PostPassTestsAndChains := by
  intro p laneVolume cylinder head revolutions settle selector cellOverride s hready run
  refine ⟨fun h => exec_postPass hready (State.postPass_outOfRange h), ?_⟩
  intro i v hplace hlow hhigh hsettle hselector
  have hpost := State.postPass_eq (s := s) (cylinder := cylinder.toNat) (head := head.toNat)
    (cellOverride := cellOverride.toNat) hplace hlow hhigh hsettle hselector
  refine ⟨fun hfree => ?_, fun hopen hout => ?_, fun hopen hc hh hstate => ⟨fun hchain => ?_, fun hchain => ?_⟩⟩
  · exact exec_postPass hready (hpost.trans (if_neg (by rw [hfree]; decide)))
  · exact exec_postPass hready (hpost.trans ((if_pos hopen).trans (if_neg (by omega))))
  · rw [if_pos hopen, if_pos ⟨hc, hh⟩, State.placePass_busy hstate hchain] at hpost
    exact exec_postPass hready hpost
  · rw [if_pos hopen, if_pos ⟨hc, hh⟩, State.placePass_chains hstate hchain] at hpost
    refine (exec_postPass hready hpost).trans ?_
    rw [descriptorOf, heldOverride_eq, finOf_eq_ofNat]

/-- Settles O19: past the tests the descriptor is activated, which is `State.activate_eq`. -/
theorem postPassActivatesAnIdleLane : Obligations.PostPassActivatesAnIdleLane := by
  intro p laneVolume cylinder head revolutions settle selector cellOverride s i v hready hplace hlow hhigh hsettle
    hselector hopen hc hh hidle d
  have hpost := State.postPass_eq (s := s) (cylinder := cylinder.toNat) (head := head.toNat)
    (cellOverride := cellOverride.toNat) hplace hlow hhigh hsettle hselector
  rw [if_pos hopen, if_pos ⟨hc, hh⟩, State.placePass_idle hidle, State.activate_eq] at hpost
  refine (exec_postPass hready hpost).trans ?_
  rw [descriptorOf, heldOverride_eq, finOf_eq_ofNat]

/-! ## ABORT PASS -/

theorem getLsbD_zero_iff (b : Byte) : b.getLsbD 0 = true ↔ b.toNat % 2 = 1 := by
  simp [BitVec.getLsbD, Nat.testBit_zero]

theorem getLsbD_one_iff (b : Byte) : b.getLsbD 1 = true ↔ b.toNat / 2 % 2 = 1 := by
  simp [BitVec.getLsbD, Nat.testBit_succ, Nat.testBit_zero]

theorem Lane.recordCause_cause (l : Lane) (c : PassOutcome) :
    (l.recordCause c).cause = if l.cause = none then some c else l.cause := by
  unfold Lane.recordCause
  cases l.cause <;> rfl

/-- R71: what an abort leaves of the lane, by the two flags' bits. -/
theorem Lane.abort_eq (l : Lane) {discardQueue clearChain : Bool} {discard clears : Prop} [Decidable discard]
    [Decidable clears] (hd : discardQueue = true ↔ discard) (hc : clearChain = true ↔ clears) :
    l.abort discardQueue clearChain =
      { l with
        framer :=
          { l.framer with
            mode := .stopped, finishing := false, heldId := none, gapCount := 0, markFromGap := false
            cells := [], bytes := [], confidences := [] }
        interval := none
        request := none
        cause := if l.cause = none then some .aborted else l.cause
        state := .draining
        queue := if discard then [] else l.queue
        counts :=
          { l.counts with
            queueDiscards :=
              if discard then
                (if l.counts.queueDiscards + l.queue.length ≤ 255 then l.counts.queueDiscards + l.queue.length
                else max l.counts.queueDiscards 255)
              else l.counts.queueDiscards }
        chain := if clears then none else l.chain } := by
  simp only [Lane.abort, Lane.recordCause_cause, Framer.stop, satAdd, hd, hc]
  rfl

/-- R92: an abort ends the burst of the lane whose queue it empties. -/
theorem State.abortLane_eq (s : State) (i : Fin 4) {discardQueue clearChain : Bool} {discard : Prop} [Decidable discard]
    (hd : discardQueue = true ↔ discard) :
    s.abortLane i discardQueue clearChain =
      { s.setLane i ((s.lanes[i]).abort discardQueue clearChain) with
        arbiter :=
          if discard ∧ s.arbiter.owner = some i ∧ (s.lanes[i]).queue ≠ [] then
            { s.arbiter with
              owner := none
              served := 0
              order := if s.arbiter.rotating then s.arbiter.order.filter (· != i) ++ [i] else s.arbiter.order }
          else s.arbiter } := by
  unfold State.abortLane
  dsimp only
  congr 1
  have hends : (discardQueue && (s.arbiter.owner == some i) && !(s.lanes[i]).queue.isEmpty) = true ↔
      discard ∧ s.arbiter.owner = some i ∧ (s.lanes[i]).queue ≠ [] := by
    rw [← hd]
    simp [-Fin.getElem_fin, and_assoc]
  by_cases h : discard ∧ s.arbiter.owner = some i ∧ (s.lanes[i]).queue ≠ []
  · rw [if_pos (hends.2 h), if_pos h, Arbiter.endBurst_owned h.2.1]
  · rw [if_neg (fun hc => h (hends.1 hc)), if_neg h]

/-- An ABORT PASS taken answers with its reply. -/
theorem exec_abortPass {p : PortId} {lane flags : Byte} {s t : State} {r : ResultCode} {bytes : List Byte}
    (hready : s.ready p) (hreply : s.abortPass lane.toNat flags = ⟨r, bytes, t⟩) :
    exec (.abortPass p lane flags) s = .next (t.answered p r bytes) :=
  congrArg Host.Outcome.next (State.onCommand_answers hready _ hreply)

/-- Settles O20: the two tests, and past them the aborted lane and the burst it may end. -/
theorem abortPassStopsTheLane : Obligations.AbortPassStopsTheLane := by
  intro p lane flags s hready
  refine ⟨fun h => exec_abortPass hready ?_, fun i hi => ⟨fun hidle => exec_abortPass hready ?_, fun hstate => ?_⟩⟩
  · rw [State.abortPass, finOf_none (k := 4) h]
  · simp only [State.abortPass, finOf_eq i hi, hidle, if_true]
  · intro l discard ends
    have hreply : s.abortPass lane.toNat flags = ⟨.ok, [], s.abortLane i (flags.getLsbD 0) (flags.getLsbD 1)⟩ := by
      simp only [State.abortPass, finOf_eq i hi, hstate, if_false]
    rw [exec_abortPass hready hreply, State.abortLane_eq s i (getLsbD_zero_iff flags),
      Lane.abort_eq _ (getLsbD_zero_iff flags) (getLsbD_one_iff flags)]

end Sys2Proof.Machine
end

section
/-! SUPPORT. Resets (R185, R186): what a reset leaves, a part held in reset keeps through every command, and the obligation
they settle. -/

namespace Sys2Proof.Machine

/-! ## The state a reset leaves -/

theorem State.resetBlocks_lane (s : State) (i : Fin 4) :
    s.resetBlocks.lanes[i] = { Lane.reset with freeCount := (s.lanes[i]).freeCount } := by
  fin_cases i <;> rfl

theorem Port.afterReset_eq (x : Port) :
    x.afterReset = ⟨.point 0 0 0, .ok, 0, 0, if x.phase = .closed then .closed else .abandoned⟩ := by
  unfold Port.afterReset
  cases x.phase <;> rfl

theorem State.resetBlocks_port (s : State) (p : PortId) : s.resetBlocks.port p = (s.port p).afterReset := by
  cases p <;> rfl

/-- R186: a falling RESET_N leaves the part held in reset. -/
theorem State.resetBlocks_held (s : State) : ({ s.resetBlocks with resetLow := true } : State).HeldInReset := by
  refine ⟨rfl, fun i => ?_, rfl, fun p => ?_⟩
  · exact (State.resetBlocks_lane s i).trans (by rw [State.resetBlocks_lane])
  · have hport : ({ s.resetBlocks with resetLow := true } : State).port p = (s.port p).afterReset := by cases p <;> rfl
    rw [hport, Port.afterReset_eq]
    refine ⟨rfl, ?_⟩
    dsimp only
    split
    · exact .inl rfl
    · exact .inr rfl

/-! ## A part held in reset -/

/-- A command on a part held in reset completes, leaves it held in reset, and leaves candidate memory alone (R186). -/
def State.StaysHeld (s : State) (r : Result) : Prop := ∃ t, r = .next t ∧ t.HeldInReset ∧ t.slots = s.slots

section held

variable {s : State} (h : s.HeldInReset)

include h

theorem State.HeldInReset.low : s.resetLow = true := by
  obtain ⟨heq, -⟩ := h
  rw [heq]

/-- Every lane is IDLE with nothing in progress. -/
theorem State.HeldInReset.idle (i : Fin 4) :
    (s.lanes[i]).state = .idle ∧ (s.lanes[i]).active = none ∧ (s.lanes[i]).interval = none
      ∧ (s.lanes[i]).queue = [] := by
  obtain ⟨-, hlanes, -⟩ := h
  rw [hlanes i]
  exact ⟨rfl, rfl, rfl, rfl⟩

theorem State.HeldInReset.unready (p : PortId) : ¬ s.ready p := by
  obtain ⟨-, -, -, hports⟩ := h
  rintro ⟨status, hphase⟩
  obtain ⟨-, hclosed | habandoned⟩ := hports p
  · cases hclosed.symm.trans hphase
  · cases habandoned.symm.trans hphase

/-- No transaction is in a data phase. -/
theorem State.HeldInReset.noData (p : PortId) :
    (s.port p).phase.isReading = false ∧ (s.port p).phase.isWriting = false
      ∧ ∀ out copy, (s.port p).phase ≠ .response out copy := by
  obtain ⟨-, -, -, hports⟩ := h
  obtain ⟨-, hphase | hphase⟩ := hports p <;> rw [hphase] <;> exact ⟨rfl, rfl, nofun⟩

/-- The phase of a port moves between closed and abandoned. -/
theorem State.HeldInReset.setPhase (p : PortId) {ph : Phase} (hph : ph = .closed ∨ ph = .abandoned) :
    (s.setPort p { s.port p with phase := ph }).HeldInReset
      ∧ (s.setPort p { s.port p with phase := ph }).slots = s.slots := by
  have hlanes' : (s.setPort p { s.port p with phase := ph }).lanes = s.lanes := by cases p <;> rfl
  have hengine' : (s.setPort p { s.port p with phase := ph }).engine = s.engine := by cases p <;> rfl
  obtain ⟨heq, hlanes, hengine, hports⟩ := h
  refine ⟨⟨?_, ?_, ?_, fun q => ?_⟩, by cases p <;> rfl⟩
  · rw [heq]
    cases p <;> rfl
  · rw [hlanes']
    exact hlanes
  · rw [hengine']
    exact hengine
  · by_cases hq : q = p
    · subst hq
      rw [State.setPort_port_same]
      obtain ⟨hport, -⟩ := hports q
      rw [hport]
      exact ⟨rfl, hph⟩
    · rw [State.setPort_port_ne s p q _ hq]
      exact hports q

/-- Time that passes at an IDLE lane without an interval leaves the lane as it is (R23, R24). -/
theorem State.HeldInReset.elapse (i : Fin 4) (dt : Nat) : s.elapse i dt = s := by
  obtain ⟨hstate, hactive, hinterval, -⟩ := h.idle i
  unfold State.elapse
  simp only [hactive]
  have hwatched : (s.lanes[i]).watched = false := Lane.watched_eq_false (.inl hstate)
  have hlane (n : Nat) : (s.lanes[i]).elapse n dt = s.lanes[i] := by
    unfold Lane.elapse
    rw [hwatched, hinterval]
    generalize s.lanes[i] = l at hinterval
    cases l
    cases hinterval
    rfl
  rw [hlane]
  exact State.setLane_self s i

/-- Without a descriptor, an event at a lane's inputs finds nothing to do. -/
theorem State.HeldInReset.laneEvent (i : Fin 4) (dt : Nat) :
    execIndexEdge i dt s = .next s ∧ execNoIndexTimeout i dt s = .next s ∧ execFluxTransition i dt s = .next s
      ∧ execIntervalTimeout i dt s = .next s := by
  obtain ⟨hstate, hactive, hinterval, -⟩ := h.idle i
  have hwatched : (s.lanes[i]).watched = false := Lane.watched_eq_false (.inl hstate)
  simp only [execIndexEdge, execNoIndexTimeout, execFluxTransition, execIntervalTimeout, h.elapse i dt, hwatched, hactive,
    hinterval, and_self]

/-- With every queue and the engine's hand empty, the engine and the lanes have nothing to finish. -/
theorem State.HeldInReset.engineEvent :
    execGrant s = .next s ∧ execMergeEnd s = .next s ∧ execEvaluationCompletion s = .next s
      ∧ ∀ i, execPassCompletion i s = .next s := by
  have hgrant : s.grantOne = s := by
    obtain heq | ⟨l, arb, a, rest, -, -, hqueue, -⟩ := s.grantOne_popped
    · exact heq
    · obtain ⟨-, -, -, hempty⟩ := h.idle l
      cases hempty.symm.trans hqueue
  have hphase : s.engine.phase = .idle := by
    obtain ⟨-, -, hengine, -⟩ := h
    rw [hengine]
    rfl
  refine ⟨congrArg Host.Outcome.next hgrant, ?_, ?_, fun i => ?_⟩
  · simp only [execMergeEnd, hphase]
  · simp only [execEvaluationCompletion, hphase]
  · obtain ⟨hstate, -⟩ := h.idle i
    have hdrained : ¬ s.drained i = true := by
      unfold State.drained
      rw [hstate]
      exact Bool.false_ne_true
    exact congrArg Host.Outcome.next (if_neg hdrained)

/-- Chip select moves a port between closed and abandoned (R186, R171). -/
theorem State.HeldInReset.chipSelect (p : PortId) :
    s.StaysHeld (execChipSelectFall p s) ∧ s.StaysHeld (execTransactionCut p s)
      ∧ s.StaysHeld (execDataPhaseEnd p s) := by
  have hkeeps : s.StaysHeld (.next s) := ⟨s, rfl, h, rfl⟩
  have hopens : s.StaysHeld (.next (s.setPort p { s.port p with phase := .abandoned })) :=
    ⟨_, rfl, h.setPhase p (.inr rfl)⟩
  have hcloses : s.StaysHeld (.next (s.setPort p { s.port p with phase := .closed })) :=
    ⟨_, rfl, h.setPhase p (.inl rfl)⟩
  have hlow := h.low
  obtain ⟨-, -, -, hports⟩ := h
  obtain ⟨-, hphase | hphase⟩ := hports p
  · simp only [execChipSelectFall, execTransactionCut, execDataPhaseEnd, hphase, hlow, if_true]
    exact ⟨hopens, hkeeps, hkeeps⟩
  · simp only [execChipSelectFall, execTransactionCut, execDataPhaseEnd, hphase]
    exact ⟨hkeeps, hcloses, hcloses⟩

/-- R186: a command on a part held in reset leaves it held in reset, but for the rise of RESET_N. -/
theorem State.HeldInReset.exec {c : Instr} (hc : c ≠ .resetRelease) :
    s.StaysHeld (Machine.exec c s) := by
  have hkeeps (heq : Machine.exec c s = .next s) : s.StaysHeld (Machine.exec c s) := ⟨s, heq, h, rfl⟩
  have hwrite (p : PortId) (f : Nat → Nat → Nat → Option (State × ResultCode)) :
      Host.Outcome.next (s.onWindowWrite p f) = (.next s : Result) := by
    obtain ⟨-, hwriting, -⟩ := h.noData p
    simp only [State.onWindowWrite, hwriting]
  obtain ⟨hgrant, hmerge, hevaluation, hcompletion⟩ := h.engineEvent
  cases c with
  | resetRelease => exact absurd rfl hc
  | resetAssert => exact ⟨_, rfl, State.resetBlocks_held s, rfl⟩
  | chipSelectFall p => exact (h.chipSelect p).1
  | transactionCut p => exact (h.chipSelect p).2.1
  | dataPhaseEnd p => exact (h.chipSelect p).2.2
  | status p | readEvents p | readWindow p | writeWindow p | resetDevice p | setEventMask p | setWindow p
  | openVolume p | closeVolume p | postPass p | abortPass p | locate p | queryTrack p | nextSettled p | release p
  | unknownCommand p => exact hkeeps (exec_unready (h.unready p) rfl)
  | settingsWrite p | profileWrite p | presetWrite p | scheduleWrite p => exact hkeeps (hwrite p _)
  | readEventsClear p =>
    obtain ⟨-, -, hresponse⟩ := h.noData p
    refine hkeeps (congrArg Host.Outcome.next ?_)
    split
    next out copy hphase => exact absurd hphase (hresponse out _)
    next => rfl
  | windowByteRead p =>
    obtain ⟨hreading, -⟩ := h.noData p
    exact hkeeps (congrArg Host.Outcome.next (if_neg (by rw [hreading]; decide)))
  | windowByteWrite p b =>
    obtain ⟨-, hwriting, -⟩ := h.noData p
    refine hkeeps ?_
    change execWindowByteWrite p b s = _
    unfold execWindowByteWrite
    simp only [hwriting]
    exact hwrite p _
  | indexEdge i dt => exact hkeeps (h.laneEvent i dt).1
  | noIndexTimeout i dt => exact hkeeps (h.laneEvent i dt).2.1
  | fluxTransition i dt => exact hkeeps (h.laneEvent i dt).2.2.1
  | intervalTimeout i dt => exact hkeeps (h.laneEvent i dt).2.2.2
  | grant => exact hkeeps hgrant
  | mergeEnd => exact hkeeps hmerge
  | evaluationCompletion => exact hkeeps hevaluation
  | passCompletion i => exact hkeeps (hcompletion i)

end held

/-- R186: a step of a part held in reset, whose RESET_N does not rise, leaves it held in reset. -/
theorem State.HeldInReset.step {s : State} (h : s.HeldInReset) (hrise : s.pending.head? ≠ some .resetRelease) :
    s.StaysHeld (Machine.step s) := by
  unfold Machine.step
  split
  next =>
    refine ⟨s, ?_, h, rfl⟩
    rw [State.tick, h.elapse, h.elapse, h.elapse, h.elapse]
  next c rest hpending =>
    have hrest : ({ s with pending := rest } : State).HeldInReset := by
      obtain ⟨heq, hlanes, hengine, hports⟩ := h
      exact ⟨by rw [heq], hlanes, hengine, fun p => by cases p; exacts [hports .bay, hports .station]⟩
    exact hrest.exec fun hc => hrise (by rw [hpending, hc]; rfl)

/-- Settles O25: a reset's values are those of `State.resetBlocks`, and a part held in reset keeps them. -/
theorem resetsReturnEveryBlock : Obligations.ResetsReturnEveryBlock := by
  refine ⟨fun s h hrise => h.step hrise, fun p s hready => ?_, fun s => ?_, fun s => rfl, ?_⟩
  · refine ⟨_, congrArg Host.Outcome.next (if_pos (State.awaits_of_ready hready)), ?_, ?_, ?_, ?_, ?_⟩
    · cases p <;> rfl
    · intro i
      rw [State.setPort_lanes]
      exact State.resetBlocks_lane s i
    · cases p <;> rfl
    · rw [State.setPort_port_same]
      rfl
    · rw [State.setPort_port_other, State.resetBlocks_port, Port.afterReset_eq]
  · have hport (p : PortId) : ({ s.resetBlocks with resetLow := true } : State).port p =
        ⟨.point 0 0 0, .ok, 0, 0, if (s.port p).phase = .closed then .closed else .abandoned⟩ := by
      rw [← Port.afterReset_eq]
      cases p <;> rfl
    refine ⟨_, rfl, rfl, State.resetBlocks_lane s, rfl, State.resetBlocks_held s, hport, fun p => ?_⟩
    rw [hport]
    simp [Port.attention]
  · exact ⟨rfl, rfl, rfl, rfl, rfl, rfl, rfl, rfl, rfl, rfl, rfl, rfl, rfl, rfl, rfl, rfl, rfl, rfl, rfl, rfl, rfl, rfl,
      rfl, rfl, rfl, rfl, rfl, rfl, rfl, rfl, rfl, rfl, rfl⟩

end Sys2Proof.Machine
end

section
/-! SUPPORT. QUERY TRACK and NEXT SETTLED (R113, R114) and the pass completion (R68, R69): a lemma for each test and each answer,
and the obligations they settle. -/

namespace Sys2Proof.Machine

/-! ## QUERY TRACK -/

section queryTrack

variable {s : State} {cylinder head : Nat}

/-- R113: a volume number out of range. -/
theorem State.queryTrack_noVolume {volume : Nat} (h : 7 < volume) :
    s.queryTrack volume cylinder head = ⟨.range, [0], s⟩ := by
  simp [State.queryTrack, finOf_none (k := 8) h]

variable {v : Fin 8}

/-- R113: a volume that is not OPEN. -/
theorem State.queryTrack_notOpen (h : (s.volumes[v]).isOpen = false) :
    s.queryTrack v.val cylinder head = ⟨.refused, [0], s⟩ := by
  simp [-Fin.getElem_fin, State.queryTrack, finOf_eq v rfl, h]

/-- R113: inside an OPEN volume the geometry decides between RANGE and the answer. -/
theorem State.queryTrack_open (h : (s.volumes[v]).isOpen = true) :
    s.queryTrack v.val cylinder head =
      if cylinder < (s.volumes[v]).cylinders ∧ head < (s.volumes[v]).heads then
        ⟨.ok, BitVec.ofNat 8 (s.volumes[v]).sectorsPerTrack
          :: (List.range (s.volumes[v]).sectorsPerTrack).map fun k =>
              BitVec.ofNat 8 (s.sectorStatus ⟨⟨v, cylinder, head⟩, (s.volumes[v]).firstSector + k⟩), s⟩
      else ⟨.range, [0], s⟩ := by
  unfold State.queryTrack
  simp only [finOf_eq v rfl, h, Bool.not_true, Bool.false_eq_true, if_false, ← Bool.decide_and]
  by_cases hin : cylinder < (s.volumes[v]).cylinders ∧ head < (s.volumes[v]).heads
  · simp only [hin, and_self, decide_true, Bool.not_true, Bool.false_eq_true, if_false, if_true]
    rfl
  · simp only [hin, decide_false, Bool.not_false, if_false, if_true]

/-- R112: the status byte of a sector with an entry. -/
theorem State.sectorStatus_entry {k : SectorKey} {i : Nat} {e : Entry} (hk : s.KeysDistinct) (hmem : (i, e) ∈ s.entries)
    (hkey : e.key = k) :
    BitVec.ofNat 8 (s.sectorStatus k) =
      match e.status with | .opened => 1 | .provisional => 2 | .settled => 3 | .conflict => 4 := by
  subst hkey
  unfold State.sectorStatus
  rw [State.findEntry_of_mem hk hmem]
  change BitVec.ofNat 8 e.status.code = _
  cases e.status <;> rfl

/-- R112: a sector without an entry is RELEASED or ABSENT. -/
theorem State.sectorStatus_absent {k : SectorKey} (hno : ∀ e ∈ s.entries, e.2.key ≠ k) :
    s.sectorStatus k = if s.isReleased k = true then 5 else 0 := by
  unfold State.sectorStatus
  rw [State.findEntry_none.2 hno]

end queryTrack

/-- A QUERY TRACK taken answers with its reply. -/
theorem exec_queryTrack {p : PortId} {volume head : Byte} {cylinder : Word} {s t : State} {r : ResultCode}
    {bytes : List Byte} (hready : s.ready p)
    (hreply : s.queryTrack volume.toNat cylinder.toNat head.toNat = ⟨r, bytes, t⟩) :
    exec (.queryTrack p volume cylinder head) s = .next (t.answered p r bytes) :=
  congrArg Host.Outcome.next (State.onCommand_answers hready _ hreply)

/-- Settles O22: past the tests every sector's byte is its status, which the entries and the released set decide. -/
theorem queryTrackListsEverySector : Obligations.QueryTrackListsEverySector := by
  intro p volume cylinder head s hready run
  refine ⟨fun h => exec_queryTrack hready (State.queryTrack_noVolume h), fun v hv => ?_⟩
  intro x
  refine ⟨fun hfree => exec_queryTrack hready (hv ▸ State.queryTrack_notOpen hfree), fun hopen hout => ?_,
    fun hopen hc hh hk => ?_⟩
  · exact exec_queryTrack hready (hv ▸ (State.queryTrack_open hopen).trans
      (if_neg fun ⟨hc, hh⟩ => hout.elim (Nat.not_le.2 hc) (Nat.not_le.2 hh)))
  · have hreply := (congrArg (s.queryTrack · cylinder.toNat head.toNat) hv).trans
      ((State.queryTrack_open hopen).trans (if_pos ⟨hc, hh⟩))
    refine ⟨_, exec_queryTrack hready hreply,
      by rw [List.length_map, List.length_range], ?_⟩
    intro j hj k
    rw [List.getElem?_map, List.getElem?_range hj]
    change (∀ i e, _ → _ → some (BitVec.ofNat 8 (s.sectorStatus k)) = _)
      ∧ (_ → (_ → some (BitVec.ofNat 8 (s.sectorStatus k)) = _) ∧ (_ → some (BitVec.ofNat 8 (s.sectorStatus k)) = _))
    have hoffset : k.sector - (s.volumes[k.track.volume]).firstSector = j := Nat.add_sub_cancel_left _ _
    refine ⟨fun i e hmem hkey => congrArg some (State.sectorStatus_entry hk hmem hkey), fun hno => ⟨?_, ?_⟩⟩
    · intro hreleased
      rw [State.sectorStatus_absent hno, if_pos ((State.isReleased_iff hk k).2 (by rwa [hoffset]))]
      rfl
    · intro hclear
      rw [State.sectorStatus_absent hno, if_neg]
      · rfl
      · rw [State.isReleased_iff hk, hoffset]
        rintro ⟨t, hmem, hkey, hbit⟩
        exact absurd hbit (Bool.eq_false_iff.1 (hclear t hmem hkey))

/-! ## NEXT SETTLED -/

/-- R114: the entries that NEXT SETTLED looks for. -/
def settledFrom (v : Fin 8) (fromIndex : Nat) (x : Nat × Entry) : Bool :=
  decide (fromIndex ≤ x.1) && x.2.status == .settled && x.2.key.track.volume == v

theorem settledFrom_iff {v : Fin 8} {fromIndex i : Nat} {e : Entry} :
    settledFrom v fromIndex (i, e) = true ↔ fromIndex ≤ i ∧ e.status = .settled ∧ e.key.track.volume = v := by
  simp [settledFrom, and_assoc]

/-- In a canonical table the first element that satisfies a test is the one with the lowest number. -/
theorem Table.find_lowest {α : Type} {b : Nat} {t : Table α} (hw : Table.wf b t = true) {p : Nat × α → Bool} {i : Nat} {v : α}
    (hmem : (i, v) ∈ t) (hp : p (i, v) = true) (hlow : ∀ j w, (j, w) ∈ t → p (j, w) = true → i ≤ j) :
    t.find? p = some (i, v) := by
  have hrising := ((Table.wf_iff b t).1 hw).2
  clear hw
  induction t with
  | nil => cases hmem
  | cons x t ih =>
    obtain ⟨hhead, htail⟩ := List.pairwise_cons.1 hrising
    rw [List.find?_cons]
    obtain hx | hx := List.mem_cons.1 hmem
    · rw [← hx, hp]
    · have hno : p x = false := by
        rw [Bool.eq_false_iff]
        intro hpx
        have := hlow x.1 x.2 List.mem_cons_self hpx
        have := hhead (i, v) hx
        omega
      rw [hno]
      exact ih hx (fun j w hj => hlow j w (List.mem_cons_of_mem _ hj)) htail

section nextSettled

variable {s : State} {fromIndex : Nat}

/-- R114: a volume number out of range. -/
theorem State.nextSettled_noVolume {volume : Nat} (h : 7 < volume) :
    s.nextSettled volume fromIndex = ⟨.range, [0xFF, 0xFF], s⟩ := by
  simp [State.nextSettled, finOf_none (k := 8) h]

variable {v : Fin 8}

/-- R114: a volume that is not OPEN. -/
theorem State.nextSettled_notOpen (h : (s.volumes[v]).isOpen = false) :
    s.nextSettled v.val fromIndex = ⟨.refused, [0xFF, 0xFF], s⟩ := by
  simp [-Fin.getElem_fin, State.nextSettled, finOf_eq v rfl, h]

/-- R114: a from-index out of range. -/
theorem State.nextSettled_outOfRange (hopen : (s.volumes[v]).isOpen = true) (h : 4095 < fromIndex) :
    s.nextSettled v.val fromIndex = ⟨.range, [0xFF, 0xFF], s⟩ := by
  simp [-Fin.getElem_fin, State.nextSettled, finOf_eq v rfl, hopen, h]

/-- R114: past the tests the search answers. -/
theorem State.nextSettled_searches (hopen : (s.volumes[v]).isOpen = true) (h : fromIndex ≤ 4095) :
    s.nextSettled v.val fromIndex =
      match s.entries.find? (settledFrom v fromIndex) with
      | some (i, _) => ⟨.ok, [BitVec.ofNat 8 (i / 256), BitVec.ofNat 8 i], s⟩
      | none => ⟨.notFound, [0xFF, 0xFF], s⟩ := by
  have hin : ¬ 4095 < fromIndex := by omega
  simp only [State.nextSettled, finOf_eq v rfl, hopen, hin, Bool.not_true, Bool.false_eq_true, if_false]
  rfl

end nextSettled

/-- A NEXT SETTLED taken answers with its reply. -/
theorem exec_nextSettled {p : PortId} {volume : Byte} {fromIndex : Word} {s t : State} {r : ResultCode}
    {bytes : List Byte} (hready : s.ready p) (hreply : s.nextSettled volume.toNat fromIndex.toNat = ⟨r, bytes, t⟩) :
    exec (.nextSettled p volume fromIndex) s = .next (t.answered p r bytes) :=
  congrArg Host.Outcome.next (State.onCommand_answers hready _ hreply)

/-- Settles O23: in a canonical table the first match is the lowest. -/
theorem nextSettledFindsTheLowest : Obligations.NextSettledFindsTheLowest := by
  intro p volume fromIndex s hready run
  refine ⟨fun h => exec_nextSettled hready (State.nextSettled_noVolume h), fun v hv => ?_⟩
  refine ⟨fun hfree => exec_nextSettled hready (hv ▸ State.nextSettled_notOpen hfree),
    fun hopen hout => exec_nextSettled hready (hv ▸ State.nextSettled_outOfRange hopen hout),
    fun hopen hin hw => ⟨fun i e hmem hfrom hstatus hvolume hlow => ?_, fun hno => ?_⟩⟩
  · have hfind : s.entries.find? (settledFrom v fromIndex.toNat) = some (i, e) := by
      refine Table.find_lowest hw hmem (settledFrom_iff.2 ⟨hfrom, hstatus, hvolume⟩) fun j f hj hp => ?_
      obtain ⟨hfrom', hstatus', hvolume'⟩ := settledFrom_iff.1 hp
      exact hlow j f hj hfrom' hstatus' hvolume'
    refine exec_nextSettled hready (hv ▸ (State.nextSettled_searches hopen hin).trans ?_)
    rw [hfind]
  · have hfind : s.entries.find? (settledFrom v fromIndex.toNat) = none := by
      rw [List.find?_eq_none]
      rintro ⟨i, e⟩ hmem hp
      obtain ⟨hfrom, hstatus, hvolume⟩ := settledFrom_iff.1 hp
      exact hno i e hmem hfrom hvolume hstatus
    refine exec_nextSettled hready (hv ▸ (State.nextSettled_searches hopen hin).trans ?_)
    rw [hfind]

/-! ## The pass completion -/

theorem Engine.holdsLane_iff {e : Engine} {l : Fin 4} :
    e.holdsLane l = true ↔ ∃ h, e.hand = some h ∧ h.attempt.lane = l := by
  unfold Engine.holdsLane
  cases e.hand <;> simp

/-- R68: when DRAINING ends. -/
theorem State.drained_iff {s : State} {i : Fin 4} :
    s.drained i = true ↔
      (s.lanes[i]).state = .draining ∧ (s.lanes[i]).queue = [] ∧ ∀ h, s.engine.hand = some h → h.attempt.lane ≠ i := by
  simp only [State.drained, Bool.and_eq_true, beq_iff_eq, List.isEmpty_iff, Bool.not_eq_true', Bool.eq_false_iff, ne_eq,
    Engine.holdsLane_iff, not_exists, not_and, and_assoc]

/-- Raising the completion's events leaves what an activation reads. -/
theorem State.activatedLane_raiseCompletion (s : State) (i : Fin 4) (cause : Option PassOutcome) (l l' : Lane)
    (d : Descriptor) : ((s.raiseCompletion i cause).setLane i l').activatedLane l d = s.activatedLane l d := by
  obtain ⟨bay, station, hframe⟩ := State.raiseCompletion_frame s i cause
  rw [hframe]
  rfl

/-- R69: a drained pass completes, and a chained descriptor becomes active. -/
theorem State.completePass_eq (s : State) (i : Fin 4) :
    s.completePass i =
      (s.raiseCompletion i (s.lanes[i]).cause).setLane i
        (match (s.lanes[i]).chain with
        | none =>
          { s.lanes[i] with outcome := (s.lanes[i]).cause, active := none, state := .idle, chain := none }
        | some d =>
          s.activatedLane
            { s.lanes[i] with outcome := (s.lanes[i]).cause, active := none, state := .idle, chain := none } d) := by
  unfold State.completePass
  dsimp only
  split
  next d hchain =>
    rw [hchain, State.activate_eq, State.setLane_setLane, State.setLane_get, State.activatedLane_raiseCompletion]
    rfl
  next hchain =>
    rw [hchain]
    rfl

/-- Settles O40: the event takes place when DRAINING has ended, and `State.completePass_eq` says what it leaves. -/
theorem passCompletionReportsAndPromotes : Obligations.PassCompletionReportsAndPromotes := by
  intro s i l drains
  refine ⟨fun hnot => congrArg Host.Outcome.next (if_neg fun h => hnot (State.drained_iff.1 h)), fun hdrains => ?_⟩
  have hexec : exec (.passCompletion i) s = .next (s.completePass i) :=
    congrArg Host.Outcome.next (if_pos (State.drained_iff.2 hdrains))
  rw [hexec, State.completePass_eq]
  intro s1 s2 ended
  refine ⟨fun hchain => ?_, fun d hchain => ?_⟩
  · rw [hchain]
    rfl
  · rw [hchain]
    rfl

end Sys2Proof.Machine
end

section
/-! SUPPORT. Accepted index edges (R25 to R37, R54 to R56, R63, R64) and the NO_INDEX timeout (R29, R66): the timing an edge leaves,
how capture starts and ends, the staging point, and the obligations they settle. -/

namespace Sys2Proof.Machine

/-! ## Finish requests -/

/-- R19: inside a field a finish request is kept. -/
theorem Framer.finish_inside {f : Framer} (h : f.inside) : f.finish = { f with finishing := true } := by
  unfold Framer.finish
  obtain h | h | h := h <;> rw [h]

/-- R19: a framer hunting or in GAP stops at a finish request. -/
theorem Framer.finish_searching {f : Framer} (h : f.mode = .hunt ∨ f.mode = .gap) : f.finish = f.halted := by
  unfold Framer.finish
  obtain h | h := h <;> rw [h] <;> rfl

/-- R19: outside a field a finish request leaves the framer STOPPED. -/
theorem Framer.finish_outside {f : Framer} (h : ¬ f.inside) : f.finish.mode = .stopped := by
  unfold Framer.finish
  split
  next hmode => exact hmode
  next => rfl
  next => rfl
  next hmode => exact absurd (.inl hmode) h
  next hmode => exact absurd (.inr (.inl hmode)) h
  next hmode => exact absurd (.inr (.inr hmode)) h

theorem Framer.running_of_inside {f : Framer} (h : f.inside) : f.mode ≠ .stopped := by
  obtain h | h | h := h <;> rw [h] <;> decide

theorem Lane.settleFraming_running {l : Lane} (h : l.framer.mode ≠ .stopped) : l.settleFraming = l := if_neg h

/-- R67: a lane whose framer is STOPPED. -/
theorem Lane.settleFraming_stopped {l : Lane} (h : l.framer.mode = .stopped) :
    l.settleFraming = { l with interval := none, state := if l.state = .finishing then .draining else l.state } :=
  if_pos h

theorem Lane.requestFinish_inside {l : Lane} (h : l.framer.inside) :
    l.requestFinish = { l with framer := { l.framer with finishing := true } } := by
  unfold Lane.requestFinish
  rw [Framer.finish_inside h]
  exact Lane.settleFraming_running (Framer.running_of_inside h)

theorem Lane.requestFinish_outside {l : Lane} (h : ¬ l.framer.inside) :
    l.requestFinish =
      { l with
        framer := l.framer.finish, interval := none
        state := if l.state = .finishing then .draining else l.state } := by
  unfold Lane.requestFinish
  exact Lane.settleFraming_stopped (Framer.finish_outside h)

/-- R64, R66: a framer inside a field when capture ends. -/
theorem Lane.endCapture_inside {l : Lane} (h : l.framer.inside) (c : PassOutcome) :
    l.endCapture c =
      { l with
        cause := if l.cause = none then some c else l.cause, state := .finishing
        framer := { l.framer with finishing := true } } := by
  rw [← Lane.recordCause_cause]
  exact Lane.requestFinish_inside (l := { l.recordCause c with state := .finishing }) h

/-- R64, R66: any other framer when capture ends. -/
theorem Lane.endCapture_outside {l : Lane} (h : ¬ l.framer.inside) (c : PassOutcome) :
    l.endCapture c =
      { l with
        cause := if l.cause = none then some c else l.cause, state := .draining, framer := l.framer.finish
        interval := none } := by
  rw [← Lane.recordCause_cause]
  exact Lane.requestFinish_outside (l := { l.recordCause c with state := .finishing }) h

/-! ## An accepted edge -/

/-- R25 to R28: an accepted edge is the staging point of the lane to which the time before it has come. -/
theorem exec_indexEdge_accepted {s : State} {i : Fin 4} {d : Descriptor} {elapsed : Nat}
    (h : s.acceptsEdge i d elapsed) :
    let n := (s.profileOf d.volume).revPeriod
    let l := s.laneAfter i n elapsed
    l.timing.classify n ≠ .glitch
      ∧ exec (.indexEdge i elapsed) s =
          .next (s.setLane i (l.acceptEdge (s.profileOf d.volume) s.presets d (l.timing.classify n))) := by
  obtain ⟨hwatch, htime, hperiod⟩ := h
  intro n l
  have hkind : l.timing.classify n ≠ .glitch := by
    obtain ⟨-, hglitch, -, -⟩ := Timing.classify_spec n l.timing
    rw [ne_eq, hglitch]
    rintro ⟨hseen, hshort⟩
    obtain hfirst | hlong := hperiod
    · exact Bool.false_ne_true (hfirst.symm.trans hseen)
    · exact absurd hshort (Nat.not_lt.2 hlong)
  exact ⟨hkind, by rw [exec_indexEdge, execIndexEdge_watching hwatch htime, Lane.indexEdge_accepted hkind]⟩

/-! ## The cell clock -/

/-- R25, R27, R28: what an accepted edge makes of the timer, the last period and the history. -/
theorem Timing.accept_eq {n : Nat} {t : Timing} (h : t.classify n ≠ .glitch) :
    t.accept (t.classify n) =
      { t with
        timerTicks := 0, edgeSeen := true
        history :=
          if t.edgeSeen = true ∧ t.timerTicks / 80 ≤ 3 * n / 2 then (t.timerTicks / 80 :: t.history).take 4 else t.history
        lastPeriod := if t.edgeSeen = true then t.timerTicks / 80 else t.lastPeriod } := by
  obtain ⟨hfirst, -, hfault, hgood⟩ := Timing.classify_spec n t
  cases hk : t.classify n with
  | glitch => exact absurd hk h
  | first =>
    have hseen := hfirst.1 hk
    simp [Timing.accept, hseen]
  | fault =>
    obtain ⟨hseen, -, hlong⟩ := hfault.1 hk
    have hnot : ¬ t.timerTicks / 80 ≤ 3 * n / 2 := by omega
    simp [Timing.accept, hseen, hnot, Timing.indexTimer]
  | good =>
    obtain ⟨hseen, -, hshort⟩ := hgood.1 hk
    simp [Timing.accept, hseen, hshort, Timing.indexTimer]

/-- R30 to R33: the cell clock computed afresh. -/
theorem Timing.recompute_eq (p : Profile) (cellOverride : Option Nat) (t : Timing) :
    let raw := ⌊((p.cellPeriod * (t.history.sum / t.history.length) : ℕ) : ℚ) / (p.revPeriod : ℚ) + 1 / 2⌋₊
    let cauto :=
      if t.history = [] then p.cellPeriod
      else max (p.cellPeriod - p.cellPeriod / 16) (min (p.cellPeriod + p.cellPeriod / 16) raw)
    t.recompute p cellOverride =
      { t with
        cauto := cauto, ceff := cellOverride.getD cauto
        speedClamp := t.speedClamp || decide (t.history ≠ [] ∧ cauto ≠ raw) } := by
  have hrange : cautoLow p.cellPeriod ≤ cautoHigh p.cellPeriod := by unfold cautoLow cautoHigh; omega
  unfold Timing.recompute
  simp only [cautoOfPeriods, roundHalfUp_eq, clampNat_eq hrange, ← Bool.decide_and]
  rfl

/-! ## Counting an edge -/

section countEdge

variable {d : Descriptor} {l : Lane}

/-- R34: an edge of a lane in ARMED that still settles. -/
theorem Lane.countEdge_settling (hs : l.state = .armed) (h : l.timing.settleCount + 1 < d.settle + 1) :
    l.countEdge d = { l with timing := { l.timing with settleCount := l.timing.settleCount + 1 } } := by
  unfold Lane.countEdge
  rw [hs]
  exact if_neg (by omega)

/-- R34, R63: the edge that starts capture. -/
theorem Lane.countEdge_starts (hs : l.state = .armed) (h : d.settle + 1 ≤ l.timing.settleCount + 1) :
    l.countEdge d =
      { l with
        timing := { l.timing with settleCount := l.timing.settleCount + 1 }
        state := .capturing, revolutions := 0, framer := l.framer.start, interval := some 0 } := by
  unfold Lane.countEdge
  rw [hs]
  exact if_pos h

/-- R64: an edge that closes a captured revolution short of the R-th. -/
theorem Lane.countEdge_captures (hs : l.state = .capturing) (h : l.revolutions + 1 < d.revolutions) :
    l.countEdge d = { l with revolutions := l.revolutions + 1 } := by
  unfold Lane.countEdge
  rw [hs]
  exact if_neg (by omega)

/-- R64: the edge that ends capture. -/
theorem Lane.countEdge_ends (hs : l.state = .capturing) (h : d.revolutions ≤ l.revolutions + 1) :
    l.countEdge d = ({ l with revolutions := l.revolutions + 1 }).endCapture .complete := by
  unfold Lane.countEdge
  rw [hs]
  exact if_pos h

/-- R37: an edge of a lane in FINISHING is not counted. -/
theorem Lane.countEdge_finishing (hs : l.state = .finishing) : l.countEdge d = l := by
  unfold Lane.countEdge
  rw [hs]

/-- R34: of the timing, counting an edge changes the settle count, and that in ARMED only. -/
theorem Lane.countEdge_timing (d : Descriptor) (l : Lane) :
    (l.countEdge d).timing =
      { l.timing with
        settleCount := if l.state = .armed then l.timing.settleCount + 1 else l.timing.settleCount } := by
  by_cases hs : l.state = .armed
  · rw [if_pos hs]
    by_cases h : l.timing.settleCount + 1 < d.settle + 1
    · rw [Lane.countEdge_settling hs h]
    · rw [Lane.countEdge_starts hs (by omega)]
  · rw [if_neg hs]
    obtain heq | ⟨hs', -⟩ | ⟨hs', -⟩ | ⟨-, heq⟩ | ⟨-, heq⟩ := Lane.countEdge_cases d l
    · rw [heq]
    · exact absurd hs' hs
    · exact absurd hs' hs
    · rw [heq]
    · rw [heq, Lane.endCapture_frame]

end countEdge

/-- R79: a count of one byte that is raised. -/
theorem satInc_when (b : Prop) [Decidable b] (top n : Nat) :
    (if b then satInc top n else n) = if b ∧ n < top then n + 1 else n := by
  unfold satInc
  by_cases hb : b <;> simp [hb]

/-- Settles O27: the staging point's first two steps, with the settle count of the third. -/
theorem acceptedEdgesSetTheCellClock : Obligations.AcceptedEdgesSetTheCellClock := by
  intro s i d elapsed haccepts l n cnom period good fault history raw cauto
  obtain ⟨hkind, hexec⟩ := exec_indexEdge_accepted haccepts
  set m := s.laneAfter i n elapsed with hm
  have hframe := Lane.acceptEdge_frame (s.profileOf d.volume) s.presets d (m.timing.classify n) m
  obtain ⟨x, hframe⟩ := hframe
  obtain ⟨-, -, hactive, hchain, hqueue, houtcome, hcounts, -⟩ :=
    Lane.countEdge_frame d (m.edgeTimed (s.profileOf d.volume) d (m.timing.classify n))
  refine ⟨_, hexec, ?_, ?_, ?_, ?_, ?_, ?_⟩
  all_goals rw [hframe]
  · refine (Lane.countEdge_timing d _).trans ?_
    unfold Lane.edgeTimed
    rw [Timing.accept_eq hkind, Timing.recompute_eq]
    rfl
  · refine hcounts.trans ?_
    have hfault : m.timing.classify n = EdgeKind.fault ↔ fault := by
      obtain ⟨-, -, hspec, -⟩ := Timing.classify_spec n m.timing
      rw [hspec]
      change (_ ∧ _ ≤ period ∧ _ < period) ↔ (_ ∧ _ < period)
      refine and_congr_right fun _ => ⟨fun h => h.2, fun h => ⟨by omega, h⟩⟩
    unfold Lane.edgeTimed
    simp only [hfault, satInc_when]
    rfl
  · exact hactive
  · exact hchain
  · exact houtcome
  · exact hqueue

/-- Settles O28: the third step of the staging point, by the lane's state. -/
theorem acceptedEdgesStartAndEndCapture : Obligations.AcceptedEdgesStartAndEndCapture := by
  intro s i d elapsed haccepts l
  obtain ⟨hkind, hexec⟩ := exec_indexEdge_accepted haccepts
  obtain ⟨x, hframe⟩ := Lane.acceptEdge_frame (s.profileOf d.volume) s.presets d
    (l.timing.classify (s.profileOf d.volume).revPeriod) l
  have hsettle : (l.edgeTimed (s.profileOf d.volume) d
      (l.timing.classify (s.profileOf d.volume).revPeriod)).timing.settleCount = l.timing.settleCount := by
    unfold Lane.edgeTimed
    rw [Timing.accept_eq hkind]
    rfl
  refine ⟨_, hexec, ?_, ?_, ?_, ?_⟩
  all_goals rw [hframe]
  · intro hs hcount
    rw [Lane.countEdge_settling (d := d) (l := l.edgeTimed _ d _) hs (by rwa [hsettle])]
    exact ⟨hs, rfl, rfl, rfl, rfl⟩
  · intro hs hcount
    rw [Lane.countEdge_starts (d := d) (l := l.edgeTimed _ d _) hs (by rwa [hsettle])]
    exact ⟨rfl, rfl, rfl, rfl, rfl⟩
  · intro hs
    by_cases hlast : d.revolutions ≤ l.revolutions + 1
    · rw [Lane.countEdge_ends (d := d) (l := l.edgeTimed _ d _) hs hlast]
      refine ⟨by rw [Lane.endCapture_frame]; rfl, fun h => absurd h (Nat.not_lt.2 hlast), fun _ => ⟨?_, ?_, ?_⟩⟩
      · rw [Lane.endCapture_frame]
        exact Lane.recordCause_cause _ _
      · intro hinside
        rw [Lane.endCapture_inside (l := { l.edgeTimed _ d _ with revolutions := _ }) hinside]
        exact ⟨rfl, rfl, rfl⟩
      · intro houtside
        rw [Lane.endCapture_outside (l := { l.edgeTimed _ d _ with revolutions := _ }) houtside]
        exact ⟨rfl, Framer.finish_outside houtside, rfl⟩
    · rw [Lane.countEdge_captures (d := d) (l := l.edgeTimed _ d _) hs (Nat.not_le.1 hlast)]
      exact ⟨rfl, fun _ => ⟨hs, rfl, rfl, rfl⟩, fun h => absurd h hlast⟩
  · intro hs
    rw [Lane.countEdge_finishing (l := l.edgeTimed _ d _) hs]
    exact ⟨hs, rfl, rfl, rfl, rfl⟩

/-! ## The staging point -/

/-- R35, R44: the band's clamp, on numbers. -/
theorem clampBand_nat (ceff tolerance v : Nat) :
    clampBand ceff tolerance v =
      max (ceff - ceff * (tolerance + 1) / 32) (min (ceff + ceff * (tolerance + 1) / 32) v) := by
  unfold clampBand bandHalf
  generalize ceff * (tolerance + 1) / 32 = half
  dsimp only
  split <;> [skip; split] <;> omega

/-- R55: the preset in force. -/
theorem Descriptor.decidePreset_eq (d : Descriptor) (x : ScheduleState) :
    d.decidePreset x = d.preset.getD (x.active.slots.toList.getD x.slotPosition 0) := by
  unfold Descriptor.decidePreset
  cases d.preset <;> rfl

/-- R54, R56: the staging of the schedule. -/
theorem ScheduleState.stage_eq (state : LaneState) (preset : Option (Fin 16)) (x : ScheduleState) :
    x.stage (state == LaneState.capturing) preset.isNone =
      if x.pending then
        { active := x.staged, staged := x.staged, pending := false, slotPosition := 0, revInSlot := 0 }
      else if state = .capturing ∧ preset = none then
        (if x.revInSlot + 1 = x.active.frameLength then
          { x with revInSlot := 0, slotPosition := (x.slotPosition + 1) % x.active.slotCount }
        else { x with revInSlot := x.revInSlot + 1 })
      else x := by
  simp only [ScheduleState.stage, ScheduleState.adopt, ScheduleState.advance, Bool.and_eq_true, beq_iff_eq,
    Option.isNone_iff_eq_none]

/-- R35, R54, R56: the schedule after the fifth step. -/
theorem Lane.edgeStaged_schedule (p : Profile) (presets : Vector Preset 16) (d : Descriptor) (k : EdgeKind) (l : Lane) :
    (l.edgeStaged p presets d k).schedule = l.schedule.stage (l.state == LaneState.capturing) d.preset.isNone := by
  obtain ⟨-, hschedule, -⟩ := Lane.countEdge_frame d (l.edgeTimed p d k)
  exact congrArg (·.stage (l.state == LaneState.capturing) d.preset.isNone) hschedule

/-- R35, R55: the separator after the fifth step holds the preset in force. -/
theorem Lane.edgeStaged_separator {p : Profile} {presets : Vector Preset 16} {d : Descriptor} {k : EdgeKind} {l : Lane}
    {n : Fin 16} (h : d.decidePreset (l.edgeStaged p presets d k).schedule = n) :
    (l.edgeStaged p presets d k).separator =
      { ccur := l.separator.ccur, presetInForce := n, gain := (presets[n]).gain, tolerance := (presets[n]).tolerance
        bias := (presets[n]).bias } := by
  obtain ⟨hseparator, -⟩ := Lane.countEdge_frame d (l.edgeTimed p d k)
  subst h
  unfold Lane.edgeStaged Lane.latchPreset
  dsimp only
  rw [hseparator]
  rfl

/-- Settles O29: the fourth, fifth and sixth step of the staging point. -/
theorem acceptedEdgesStageScheduleAndPreset : Obligations.AcceptedEdgesStageScheduleAndPreset := by
  intro s i d elapsed haccepts l x staged n
  obtain ⟨-, hexec⟩ := exec_indexEdge_accepted haccepts
  set m := s.laneAfter i (s.profileOf d.volume).revPeriod elapsed with hm
  set k := m.timing.classify (s.profileOf d.volume).revPeriod with hk
  have hschedule : (m.edgeStaged (s.profileOf d.volume) s.presets d k).schedule = staged := by
    rw [Lane.edgeStaged_schedule, ScheduleState.stage_eq]
    rfl
  have hpreset : d.decidePreset (m.edgeStaged (s.profileOf d.volume) s.presets d k).schedule = n := by
    rw [hschedule, Descriptor.decidePreset_eq]
  have hseparator := Lane.edgeStaged_separator hpreset
  refine ⟨_, hexec, ?_⟩
  rw [Lane.acceptEdge_eq]
  refine ⟨hschedule, ?_, ?_, ?_, ?_, ?_⟩
  · exact congrArg Separator.presetInForce hseparator
  · exact congrArg Separator.gain hseparator
  · exact congrArg Separator.tolerance hseparator
  · exact congrArg Separator.bias hseparator
  · dsimp only
    unfold Lane.anchoredCell
    rw [clampBand_nat, hseparator]
    rfl

/-! ## The NO_INDEX timeout -/

/-- R29: before a timer runs out, the event finds the lane to which the time has come. -/
theorem execNoIndexTimeout_onTime {s : State} {i : Fin 4} {d : Descriptor} {elapsed : Nat}
    (hactive : (s.lanes[i]).active = some d) (htime : s.onTime i (s.profileOf d.volume).revPeriod elapsed) :
    execNoIndexTimeout i elapsed s =
      .next (s.setLane i
        (if 2 * (s.profileOf d.volume).revPeriod ≤
            (s.laneAfter i (s.profileOf d.volume).revPeriod elapsed).timing.timerTicks / 80 then
          (s.laneAfter i (s.profileOf d.volume).revPeriod elapsed).noIndex
        else s.laneAfter i (s.profileOf d.volume).revPeriod elapsed)) := by
  have helapse := State.elapse_onTime (.inl (by rwa [State.laneProfile_active hactive]))
  rw [State.laneProfile_active hactive] at helapse
  unfold execNoIndexTimeout
  congr 1
  rw [helapse]
  dsimp only
  rw [State.setLane_get, State.laneAfter_active, hactive]
  dsimp only
  rw [State.setLane_setLane, apply_ite (s.setLane i)]
  rfl

/-- Settles O30: the expiry ends settling or capture where the timer stands at its bound. -/
theorem noIndexTimeoutEndsCapture : Obligations.NoIndexTimeoutEndsCapture := by
  intro s i d elapsed hactive htime n l cause
  have hexec : exec (.noIndexTimeout i elapsed) s =
      .next (s.setLane i (if 2 * n ≤ l.timing.timerTicks / 80 then l.noIndex else l)) :=
    execNoIndexTimeout_onTime hactive htime
  rw [hexec]
  have hcapturing (hs : l.state = .capturing) : l.noIndex = l.endCapture .noIndex := by
    unfold Lane.noIndex
    rw [hs]
  refine ⟨fun hexpired => ?_, fun hno => ?_⟩
  · rw [if_pos hexpired]
    refine ⟨fun hs => ?_, fun hs hinside => ?_, fun hs hsearching => ?_⟩
    · have harmed : l.noIndex = { l.recordCause .noIndex with state := .draining } := by
        unfold Lane.noIndex
        rw [hs]
      have hcause : (l.recordCause .noIndex).cause = cause := Lane.recordCause_cause l _
      rw [harmed, ← hcause]
      rfl
    · rw [hcapturing hs, Lane.endCapture_inside hinside]
    · have houtside : ¬ l.framer.inside := by
        obtain h | h := hsearching <;> simp [Framer.inside, h]
      rw [hcapturing hs, Lane.endCapture_outside houtside, Framer.finish_searching hsearching]
  · obtain hshort | ⟨harmed, hcapture⟩ := hno
    · rw [if_neg (Nat.not_le.2 hshort)]
    · have hstays : l.noIndex = l := by
        obtain heq | ⟨hs, -⟩ | ⟨hs, -⟩ := l.noIndex_cases
        · exact heq
        · exact absurd hs harmed
        · exact absurd hs hcapture
      rw [hstays, ite_self]

end Sys2Proof.Machine
end

section
/-! SUPPORT. Time at a lane (R24, R29, R38): ticks at one lane leave the others alone, where a timer runs out its timeout takes
effect first, and one tick at every lane, with the obligation it settles. -/

namespace Sys2Proof.Machine

/-! ## Ticks at one lane and another -/

/-- The lane that `dt` ticks at lane `i` leave there. -/
def State.elapsed (s : State) (i : Fin 4) (dt : Nat) : Lane := (s.elapse i dt).lanes[i]

theorem State.elapse_eq (s : State) (i : Fin 4) (dt : Nat) : s.elapse i dt = s.setLane i (s.elapsed i dt) := by
  unfold State.elapsed State.elapse
  rw [State.setLane_get]

/-- What time makes of a lane depends on that lane, the profiles, the volumes and the settings only. -/
theorem State.elapsed_setLane_ne (s : State) {i j : Fin 4} (h : i ≠ j) (x : Lane) (dt : Nat) :
    (s.setLane j x).elapsed i dt = s.elapsed i dt := by
  unfold State.elapsed State.elapse
  rw [State.setLane_get, State.setLane_get, State.setLane_get_ne _ _ _ _ h]
  rfl

theorem State.elapsed_elapse_ne (s : State) {i j : Fin 4} (h : i ≠ j) (dt dt' : Nat) :
    (s.elapse j dt).elapsed i dt' = s.elapsed i dt' := by
  rw [State.elapse_eq, State.elapsed_setLane_ne s h]

/-- R24, R38: a tick passes at each lane as it would pass there alone. -/
theorem State.tick_lane (s : State) (i : Fin 4) : s.tick.lanes[i] = s.elapsed i 1 := by
  have skip {s : State} {i j : Fin 4} (h : i ≠ j) : (s.elapse j 1).lanes[i] = s.lanes[i] :=
    State.elapse_get_ne _ _ _ _ h
  have before {s : State} {i j : Fin 4} (h : i ≠ j) : (s.elapse j 1).elapsed i 1 = s.elapsed i 1 :=
    State.elapsed_elapse_ne s h 1 1
  unfold State.tick
  fin_cases i
  · exact (skip (by decide)).trans ((skip (by decide)).trans (skip (by decide)))
  · exact (skip (by decide)).trans ((skip (by decide)).trans (before (by decide)))
  · exact (skip (by decide)).trans ((before (by decide)).trans (before (by decide)))
  · exact (before (by decide)).trans ((before (by decide)).trans (before (by decide)))

theorem State.tick_frame (s : State) : s.tick = { s with lanes := s.tick.lanes } := by
  unfold State.tick
  simp only [State.elapse_eq]
  rfl

/-! ## Where a timer runs out -/

/-- R29, R38: the ticks after the point where a timer runs out pass at the lane its timeout leaves. -/
theorem State.elapse_late {s : State} {i : Fin 4} {d : Descriptor} {dt t : Nat} {w : LaneTimer}
    (hactive : (s.lanes[i]).active = some d)
    (h : (s.lanes[i]).overdue (s.profileOf d.volume).revPeriod dt = some (t, w)) :
    s.elapse i dt =
      (s.setLane i (((s.lanes[i]).elapse (s.profileOf d.volume).revPeriod t).runOut (s.laneEnv i d) d w)).elapse i
        (dt - t) := by
  have hruns : (((s.lanes[i]).elapse (s.profileOf d.volume).revPeriod t).runOut (s.laneEnv i d) d w).active = some d := by
    refine Eq.trans ?_ hactive
    cases w with
    | interval =>
      obtain ⟨c, hsame, -⟩ := Lane.closeInterval_frame (s.laneEnv i d) d 8192
        ((s.lanes[i]).elapse (s.profileOf d.volume).revPeriod t)
      exact (congrArg Lane.active hsame).trans rfl
    | index => exact (Lane.noIndex_keeps _).1
  have hpass := Lane.passTime_some (env := s.laneEnv i d) (d := d) h
  unfold State.elapse
  rw [State.setLane_setLane]
  congr 1
  rw [State.setLane_get, hactive, hruns]
  exact hpass

/-- R38: the timeout of the interval that runs out first. -/
theorem execIntervalTimeout_ends {s : State} {i : Fin 4} {d : Descriptor} {t : Nat}
    (hactive : (s.lanes[i]).active = some d) (h : s.intervalEnds i (s.profileOf d.volume).revPeriod t) :
    execIntervalTimeout i t s =
      .next (s.setLane i
        (((s.lanes[i]).elapse (s.profileOf d.volume).revPeriod t).runOut (s.laneEnv i d) d .interval)) := by
  obtain ⟨⟨k, hk, rfl⟩, hfirst⟩ := h
  have hnone : (s.lanes[i]).overdue (s.profileOf d.volume).revPeriod (8192 - k) = none := by
    refine Lane.overdue_none_of (fun a ha => ?_) fun b hb => ?_
    · rw [Lane.timeoutIn, hk] at ha
      cases ha
      exact Nat.le_refl _
    · obtain ⟨hs, rfl⟩ := Lane.expiryIn_some.1 hb
      exact hfirst hs
  have helapse : s.elapse i (8192 - k) = s.setLane i ((s.lanes[i]).elapse (s.profileOf d.volume).revPeriod (8192 - k)) := by
    unfold State.elapse
    rw [hactive]
    exact congrArg (s.setLane i) (Lane.passTime_none (env := s.laneEnv i d) hnone _)
  have hinterval : ((s.lanes[i]).elapse (s.profileOf d.volume).revPeriod (8192 - k)).interval = some 8192 := by
    change (s.lanes[i]).interval.map _ = _
    rw [hk]
    simp only [Option.map_some, Option.some.injEq]
    omega
  have hactive' : ((s.lanes[i]).elapse (s.profileOf d.volume).revPeriod (8192 - k)).active = some d := hactive
  unfold execIntervalTimeout
  congr 1
  rw [helapse]
  dsimp only
  rw [State.setLane_get, hinterval, hactive']
  dsimp only
  rw [if_pos (Nat.le_refl _), State.setLane_setLane]
  rfl

/-- R29: the expiry of the index timer that runs out first. -/
theorem execNoIndexTimeout_expires {s : State} {i : Fin 4} {d : Descriptor} {t : Nat}
    (hactive : (s.lanes[i]).active = some d) (h : s.indexExpires i (s.profileOf d.volume).revPeriod t) :
    execNoIndexTimeout i t s =
      .next (s.setLane i
        (((s.lanes[i]).elapse (s.profileOf d.volume).revPeriod t).runOut (s.laneEnv i d) d .index)) := by
  obtain ⟨hs, rfl, hfirst⟩ := h
  set n := (s.profileOf d.volume).revPeriod with hn
  set t := 160 * n - (s.lanes[i]).timing.timerTicks with ht
  have hnone : (s.lanes[i]).overdue n t = none := by
    refine Lane.overdue_none_of (fun a ha => ?_) fun b hb => ?_
    · obtain ⟨k, hk, rfl⟩ := Option.map_eq_some_iff.1 ha
      exact (hfirst k hk).le
    · obtain ⟨-, rfl⟩ := Lane.expiryIn_some.1 hb
      exact Nat.le_refl _
  have helapse : s.elapse i t = s.setLane i ((s.lanes[i]).elapse n t) := by
    unfold State.elapse
    rw [hactive]
    exact congrArg (s.setLane i) (Lane.passTime_none (env := s.laneEnv i d) hnone _)
  have hexpired : 2 * n ≤ ((s.lanes[i]).elapse n t).timing.indexTimer := by
    have hwatched : (s.lanes[i]).watched = true := (Lane.watched_iff _).2 (by tauto)
    have hticks : ((s.lanes[i]).elapse n t).timing.timerTicks = min (160 * n) ((s.lanes[i]).timing.timerTicks + t) := by
      unfold Lane.elapse
      rw [if_pos hwatched]
    rw [Timing.indexTimer, hticks]
    omega
  have hactive' : ((s.lanes[i]).elapse n t).active = some d := hactive
  unfold execNoIndexTimeout
  congr 1
  rw [helapse]
  dsimp only
  rw [State.setLane_get, hactive']
  refine (if_pos hexpired).trans ?_
  rw [State.setLane_setLane]
  rfl

/-- An event at a lane finds what the timer that has run out before it has done (R29, R38). -/
theorem exec_late {late : Nat → Instr} {i : Fin 4}
    (h : late = Instr.fluxTransition i ∨ late = Instr.indexEdge i ∨ late = Instr.intervalTimeout i
      ∨ late = Instr.noIndexTimeout i) {s s1 : State} {dt dt1 : Nat} (helapse : s.elapse i dt = s1.elapse i dt1) :
    exec (late dt) s = exec (late dt1) s1 := by
  obtain rfl | rfl | rfl | rfl := h
  · change execFluxTransition i dt s = execFluxTransition i dt1 s1
    unfold execFluxTransition
    rw [helapse]
  · change execIndexEdge i dt s = execIndexEdge i dt1 s1
    unfold execIndexEdge
    rw [helapse]
  · change execIntervalTimeout i dt s = execIntervalTimeout i dt1 s1
    unfold execIntervalTimeout
    rw [helapse]
  · change execNoIndexTimeout i dt s = execNoIndexTimeout i dt1 s1
    unfold execNoIndexTimeout
    rw [helapse]

/-- R29, R38: an event that comes after the open interval has run out. -/
theorem exec_afterInterval {late : Nat → Instr} {i : Fin 4}
    (h : late = Instr.fluxTransition i ∨ late = Instr.indexEdge i ∨ late = Instr.intervalTimeout i
      ∨ late = Instr.noIndexTimeout i) {s : State} {d : Descriptor} {t dt : Nat} (hactive : (s.lanes[i]).active = some d)
    (ht : t < dt) (hends : s.intervalEnds i (s.profileOf d.volume).revPeriod t) :
    ∃ s1, exec (.intervalTimeout i t) s = .next s1 ∧ s.elapse i dt = s1.elapse i (dt - t) ∧ s1.pending = s.pending
      ∧ exec (late dt) s = exec (late (dt - t)) s1 := by
  have hover : (s.lanes[i]).overdue (s.profileOf d.volume).revPeriod dt = some (t, .interval) := by
    obtain ⟨⟨k, hk, rfl⟩, hfirst⟩ := hends
    refine Lane.overdue_interval ht (by rw [Lane.timeoutIn, hk]; rfl) fun b hb => ?_
    obtain ⟨hs, rfl⟩ := Lane.expiryIn_some.1 hb
    exact hfirst hs
  have helapse := State.elapse_late hactive hover
  exact ⟨_, execIntervalTimeout_ends hactive hends, helapse, rfl, exec_late h helapse⟩

/-- R29: an event that comes after the index timer has expired. -/
theorem exec_afterExpiry {late : Nat → Instr} {i : Fin 4}
    (h : late = Instr.fluxTransition i ∨ late = Instr.indexEdge i ∨ late = Instr.intervalTimeout i
      ∨ late = Instr.noIndexTimeout i) {s : State} {d : Descriptor} {t dt : Nat} (hactive : (s.lanes[i]).active = some d)
    (ht : t < dt) (hexpires : s.indexExpires i (s.profileOf d.volume).revPeriod t) :
    ∃ s1, exec (.noIndexTimeout i t) s = .next s1 ∧ s.elapse i dt = s1.elapse i (dt - t) ∧ s1.pending = s.pending
      ∧ exec (late dt) s = exec (late (dt - t)) s1 := by
  have hover : (s.lanes[i]).overdue (s.profileOf d.volume).revPeriod dt = some (t, .index) := by
    obtain ⟨hs, rfl, hfirst⟩ := hexpires
    refine Lane.overdue_index ht (Lane.expiryIn_some.2 ⟨hs, rfl⟩) fun a ha => ?_
    obtain ⟨k, hk, rfl⟩ := Option.map_eq_some_iff.1 ha
    exact hfirst k hk
  have helapse := State.elapse_late hactive hover
  exact ⟨_, execNoIndexTimeout_expires hactive hexpires, helapse, rfl, exec_late h helapse⟩

/-! ## One tick -/

theorem step_idle {s : State} (h : s.pending = []) : step s = .next s.tick := by
  unfold step
  rw [h]

/-- Settles O3: a tick passes at each lane alone; where a timer stands at its bound, the tick finds what the timeout has
left. -/
theorem anEmptyQueueLetsOneTickPass : Obligations.AnEmptyQueueLetsOneTickPass := by
  intro s hpending
  refine ⟨s.tick, step_idle hpending, s.tick_frame, fun i => ?_⟩
  intro n
  refine ⟨fun htime => ?_, fun hactive => ?_⟩
  · rw [State.tick_lane, State.elapsed, State.elapse_onTime htime, State.setLane_get]
  · obtain ⟨d, hd⟩ := Option.ne_none_iff_exists'.1 hactive
    have hn : n = (s.profileOf d.volume).revPeriod := congrArg Profile.revPeriod (State.laneProfile_active hd)
    rw [hn]
    refine ⟨fun hends => ?_, fun hexpires => ?_⟩
    · obtain ⟨s1, hexec, helapse, hqueue, -⟩ := exec_afterInterval (.inl rfl) hd Nat.zero_lt_one hends
      refine ⟨s1, s1.tick, hexec, step_idle (hqueue.trans hpending), ?_⟩
      rw [State.tick_lane, State.tick_lane]
      exact congrArg (·.lanes[i]) helapse
    · obtain ⟨s1, hexec, helapse, hqueue, -⟩ := exec_afterExpiry (.inl rfl) hd Nat.zero_lt_one hexpires
      refine ⟨s1, s1.tick, hexec, step_idle (hqueue.trans hpending), ?_⟩
      rw [State.tick_lane, State.tick_lane]
      exact congrArg (·.lanes[i]) helapse

end Sys2Proof.Machine
end

section
/-! SUPPORT. The interval that closes (R18, R38, R45): the judgement of a framer inside a field, the events that close an
interval, and the sync loss, with the obligation it settles. -/

namespace Sys2Proof.Machine

/-! ## The judgement -/

theorem Framer.insideField_iff {f : Framer} : f.insideField = true ↔ f.inside := by
  unfold Framer.insideField
  cases hmode : f.mode <;> simp [Framer.inside, hmode]

/-- R18: the framer after the judgement of an interval that does not end its field. -/
def Framer.judgedKept (f : Framer) (e : Encoding) (kraw : Int) : Framer :=
  { f with
    runViolations :=
      if ¬ f.inside then f.runViolations
      else if (e.smallest : Int) ≤ kraw ∧ kraw ≤ e.largest then 0
      else f.runViolations + 1 }

/-- R18: the framer as a sync loss finds it, a run violation counted. -/
def Framer.judgedLost (f : Framer) (e : Encoding) (kraw : Int) : Framer :=
  { f with
    runViolations := if (2 * e.largest : Nat) < kraw then f.runViolations else f.runViolations + 1 }

/-- R18: a sync loss counted. -/
def Counts.withSyncLoss (n : Counts) : Counts :=
  { n with syncLosses := if n.syncLosses < 65535 then n.syncLosses + 1 else n.syncLosses }

/-- R18: an interval that does not end the field. -/
theorem Framer.judge_kept {p : Profile} {f : Framer} {kraw : Int} (h : ¬ f.loses p.encoding kraw) (finishing : Bool)
    (n : Counts) :
    f.judge p finishing kraw n = { framer := f.judgedKept p.encoding kraw, counts := n, lost := false } := by
  unfold Framer.judge Framer.judgedKept
  by_cases hinside : f.inside
  · rw [if_pos (Framer.insideField_iff.2 hinside), if_neg (not_not.2 hinside)]
    by_cases hset : inSet p.encoding kraw = true
    · rw [if_pos hset, if_pos ((inSet_iff _ _).1 hset)]
    · have hrange := mt (inSet_iff p.encoding kraw).2 hset
      have hdropout : ¬ ((2 * p.encoding.maxCells : Nat) < kraw) :=
        fun hd => h ⟨hinside, .inl (by rwa [Encoding.maxCells_eq_largest] at hd)⟩
      have hfew : ¬ 3 ≤ f.runViolations + 1 := fun hm => h ⟨hinside, .inr ⟨by omega, by omega⟩⟩
      rw [if_neg hset, if_neg hrange]
      simp only [hdropout, decide_false, Bool.false_eq_true, if_false, Bool.false_or, hfew]
  · rw [if_neg (fun hi => hinside (Framer.insideField_iff.1 hi)), if_pos hinside]

/-- R18, R19: an interval that ends the field as a sync loss. -/
theorem Framer.judge_lost {p : Profile} {f : Framer} {kraw : Int} (h : f.loses p.encoding kraw) (finishing : Bool)
    (n : Counts) :
    f.judge p finishing kraw n =
      { framer :=
          if finishing then (f.judgedLost p.encoding kraw).halted else (f.judgedLost p.encoding kraw).hunting
        counts := n.withSyncLoss, lost := true } := by
  obtain ⟨hinside, hbad⟩ := h
  have hset : ¬ inSet p.encoding kraw = true := by
    have := p.encoding.smallest_le_largest
    rw [inSet_iff]
    omega
  have hlost : (2 * p.encoding.largest : Nat) < kraw ∨ 3 ≤ f.runViolations + 1 := by omega
  unfold Framer.judge
  rw [if_pos (Framer.insideField_iff.2 hinside), if_neg hset]
  dsimp only
  rw [if_pos]
  · simp only [Encoding.maxCells_eq_largest, decide_eq_true_eq]
    rfl
  · simp only [Encoding.maxCells_eq_largest, Bool.or_eq_true, decide_eq_true_eq]
    split
    next hd => exact .inl hd
    next hd => exact .inr (hlost.resolve_left hd)

/-! ## The lane at a sync loss -/

section closeInterval

variable {env : LaneEnv} {d : Descriptor} {l : Lane} {i : Nat}

/-- R18, R45: the framer returns to HUNT and Ccur is re-anchored to Ceff. -/
theorem Lane.closeInterval_hunts {y : Computed}
    (hy : l.separator.compute env.profile.encoding l.timing.ceff i = y) (h : l.framer.loses env.profile.encoding y.kraw)
    (hframer : l.framer.finishing = false) (hstate : l.state ≠ .finishing) :
    l.closeInterval env d i =
      { l with
        framer := (l.framer.judgedLost env.profile.encoding y.kraw).hunting, counts := l.counts.withSyncLoss
        interval := some 0, separator := { l.separator with ccur := l.timing.ceff } } := by
  have hgoes : (l.framer.finishing || l.state == LaneState.finishing) = false := by
    rw [hframer, Bool.false_or, beq_eq_false_iff_ne]
    exact hstate
  unfold Lane.closeInterval Lane.deliver
  dsimp only
  rw [hy, Framer.judge_lost h, hgoes]
  dsimp only
  rw [if_pos rfl, if_neg Bool.false_ne_true, if_pos (by rfl)]
  exact Lane.settleFraming_running (by simp [Framer.hunting])

/-- R19, R45: in FINISHING or under a finish request the framer becomes STOPPED. -/
theorem Lane.closeInterval_halts {y : Computed}
    (hy : l.separator.compute env.profile.encoding l.timing.ceff i = y) (h : l.framer.loses env.profile.encoding y.kraw)
    (hends : l.framer.finishing = true ∨ l.state = .finishing) :
    l.closeInterval env d i =
      { l with
        framer := (l.framer.judgedLost env.profile.encoding y.kraw).halted, counts := l.counts.withSyncLoss
        interval := none, state := if l.state = .finishing then .draining else l.state
        separator := { l.separator with ccur := y.ccur } } := by
  have hgoes : (l.framer.finishing || l.state == LaneState.finishing) = true := by
    rw [Bool.or_eq_true, beq_iff_eq]
    exact hends
  unfold Lane.closeInterval Lane.deliver
  dsimp only
  rw [hy, Framer.judge_lost h, hgoes]
  dsimp only
  rw [if_pos rfl, if_pos rfl, if_neg (by simp [Framer.halted])]
  exact Lane.settleFraming_stopped rfl

/-- R38, R46: an interval that does not end the field gives its cells to the framer. -/
theorem Lane.closeInterval_kept {y : Computed}
    (hy : l.separator.compute env.profile.encoding l.timing.ceff i = y)
    (h : ¬ l.framer.loses env.profile.encoding y.kraw) :
    l.closeInterval env d i =
      (Lane.takeCells env d (intervalCells y.k y.confidence)
        { l with
          interval := some 0, framer := l.framer.judgedKept env.profile.encoding y.kraw
          separator := { l.separator with ccur := y.ccur } }).settleFraming := by
  unfold Lane.closeInterval Lane.deliver
  dsimp only
  rw [hy, Framer.judge_kept h]
  rfl

end closeInterval

/-! ## The events that close an interval -/

section closes

variable {s : State} {i : Fin 4} {d : Descriptor} {k elapsed : Nat}

theorem State.elapse_active (hactive : (s.lanes[i]).active = some d)
    (htime : s.onTime i (s.profileOf d.volume).revPeriod elapsed) :
    s.elapse i elapsed = s.setLane i (s.laneAfter i (s.profileOf d.volume).revPeriod elapsed) := by
  have helapse := State.elapse_onTime (.inl (by rwa [State.laneProfile_active hactive]))
  rwa [State.laneProfile_active hactive] at helapse

/-- R38: the interval that an event at its time finds. -/
theorem State.laneAfter_interval {n : Nat} (hinterval : (s.lanes[i]).interval = some k) (htime : s.onTime i n elapsed) :
    (s.laneAfter i n elapsed).interval = some (k + elapsed) := by
  obtain ⟨hshort, -⟩ := htime
  change (s.lanes[i]).interval.map _ = _
  rw [hinterval, Option.map_some, Nat.min_eq_right (hshort k hinterval)]

/-- R38: a transition closes the open interval, and so does the timeout of one open for 8192 ticks. -/
theorem exec_closesInterval (hactive : (s.lanes[i]).active = some d) (hinterval : (s.lanes[i]).interval = some k)
    (htime : s.onTime i (s.profileOf d.volume).revPeriod elapsed) {event : Instr}
    (hevent : event = .fluxTransition i elapsed ∨ (event = .intervalTimeout i elapsed ∧ k + elapsed = 8192)) :
    exec event s =
      .next (s.setLane i
        ((s.laneAfter i (s.profileOf d.volume).revPeriod elapsed).closeInterval (s.laneEnv i d) d (k + elapsed))) := by
  have helapse := State.elapse_active hactive htime
  have hopen := State.laneAfter_interval hinterval htime
  have hactive' : (s.laneAfter i (s.profileOf d.volume).revPeriod elapsed).active = some d := hactive
  obtain rfl | ⟨rfl, hfull⟩ := hevent
  · change execFluxTransition i elapsed s = _
    unfold execFluxTransition
    congr 1
    rw [helapse]
    dsimp only
    rw [State.setLane_get, hopen, hactive']
    dsimp only
    rw [State.setLane_setLane]
    rfl
  · change execIntervalTimeout i elapsed s = _
    unfold execIntervalTimeout
    congr 1
    rw [helapse]
    dsimp only
    rw [State.setLane_get, hopen, hactive']
    dsimp only
    rw [if_pos hfull.ge, State.setLane_setLane, hfull]
    rfl

/-- R38: the timeout of an interval that is shorter does not take place. -/
theorem execIntervalTimeout_short (hactive : (s.lanes[i]).active = some d) (hinterval : (s.lanes[i]).interval = some k)
    (htime : s.onTime i (s.profileOf d.volume).revPeriod elapsed) (hshort : k + elapsed < 8192) :
    execIntervalTimeout i elapsed s =
      .next (s.setLane i (s.laneAfter i (s.profileOf d.volume).revPeriod elapsed)) := by
  have hactive' : (s.laneAfter i (s.profileOf d.volume).revPeriod elapsed).active = some d := hactive
  unfold execIntervalTimeout
  congr 1
  rw [State.elapse_active hactive htime]
  dsimp only
  rw [State.setLane_get, State.laneAfter_interval hinterval htime, hactive']
  exact if_neg (Nat.not_le.2 hshort)

end closes

/-- R38, R40: an interval of 8192 ticks holds at least 17 cells of every cell period and bias the separator can hold. -/
theorem seventeen_le_rawCells {c : Nat} {bias : Int} (hlow : 525 ≤ c) (hhigh : c ≤ 7650) (hpos : bias ≤ 4) : 17 ≤ rawCells 8192 c bias := by
  unfold rawCells
  rw [Int.le_ediv_iff_mul_le (by omega)]
  have hbias : bias * c ≤ 4 * c := by
    exact Int.mul_le_mul_of_nonneg_right hpos (Int.natCast_nonneg c)
  omega

/-- Settles O33: a sync loss is the judgement's, and 8192 ticks make a dropout. -/
theorem syncLossEndsTheField : Obligations.SyncLossEndsTheField := by
  intro s i elapsed d k hactive hinterval env l y counts judged htime
  refine ⟨fun event hevent hloses => ?_, fun hfull hlow hhigh _ hpos => ?_, fun hshort => ?_⟩
  · rw [exec_closesInterval hactive hinterval htime hevent]
    refine ⟨fun hframer hstate => ?_, fun hends => ?_⟩
    · exact congrArg (fun m => Host.Outcome.next (s.setLane i m)) (Lane.closeInterval_hunts rfl hloses hframer hstate)
    · exact congrArg (fun m => Host.Outcome.next (s.setLane i m)) (Lane.closeInterval_halts rfl hloses hends)
  · have hmany : 17 ≤ y.kraw := by
      change 17 ≤ rawCells (k + elapsed) l.separator.ccur l.separator.bias
      rw [hfull]
      exact seventeen_le_rawCells hlow hhigh hpos
    refine ⟨hmany, fun hinside => ⟨hinside, .inl ?_⟩⟩
    have hfew : env.profile.encoding.largest ≤ 4 := by unfold Encoding.largest; split <;> decide
    omega
  · exact execIntervalTimeout_short hactive hinterval htime hshort

end Sys2Proof.Machine
end

section
/-! SUPPORT. The framer cell by cell (R10 to R12, R15, R16, R19): what one cell does in each state, the mark search, and the
obligations they settle. -/

namespace Sys2Proof.Machine

/-! ## The cell history -/

/-- R11: the newest cell is the history's lowest bit. -/
theorem Framer.push_history_zero (f : Framer) (one : Bool) : (f.push one).cellHistory.getLsbD 0 = one := by
  cases one <;> simp [Framer.push]

/-- R11: the other cells have moved up by one. -/
theorem Framer.push_history_succ (f : Framer) (one : Bool) {k : Nat} (hk : k < 15) :
    (f.push one).cellHistory.getLsbD (k + 1) = f.cellHistory.getLsbD k := by
  have hlt : k + 1 < 16 := by omega
  have hlt' : k < 16 := by omega
  cases one <;> simp [Framer.push, hlt, BitVec.getLsbD_eq_getElem hlt']

theorem Framer.push_length (f : Framer) (one : Bool) : (f.push one).historyLength = min 16 (f.historyLength + 1) := by
  unfold Framer.push
  dsimp only
  split <;> omega

theorem Framer.push_eq (f : Framer) (one : Bool) :
    f.push one =
      { f with cellHistory := (f.push one).cellHistory, historyLength := min 16 (f.historyLength + 1) } := by
  rw [← Framer.push_length f one]
  rfl

theorem Encoding.cellsPerByte_eq (e : Encoding) : e.cellsPerByte = if e = .gcr then 10 else 16 := by
  cases e <;> rfl

/-! ## One cell in each state -/

section takeCell

variable {f : Framer} (p : Profile) (c : RecordedCell) (n : Counts)

theorem Framer.takeCell_hunt (h : f.mode = .hunt) : f.takeCell p c n = ⟨(f.push c.one).hunt p c, n, none⟩ := by
  unfold Framer.takeCell
  rw [h]

/-- R16: a cell that passes the gap limit. -/
theorem Framer.takeCell_gap_far (h : f.mode = .gap) (hfar : p.gapLimitCells < f.gapCount + 1) :
    f.takeCell p c n =
      ⟨({ f.push c.one with gapCount := f.gapCount + 1 }).hunting,
        { n with orphanIds := satInc 65535 n.orphanIds }, none⟩ := by
  unfold Framer.takeCell
  rw [h]
  exact if_pos hfar

/-- R15: a cell within the gap limit. -/
theorem Framer.takeCell_gap_near (h : f.mode = .gap) (hnear : f.gapCount + 1 ≤ p.gapLimitCells) :
    f.takeCell p c n = ⟨({ f.push c.one with gapCount := f.gapCount + 1 }).hunt p c, n, none⟩ := by
  unfold Framer.takeCell
  rw [h]
  exact if_neg (Nat.not_lt.2 hnear)

/-- R15: in a field a cell joins the byte in progress, and a MARK entered from GAP counts it. -/
theorem Framer.takeCell_inside (h : f.inside) :
    f.takeCell p c n =
      ({ f.push c.one with
        gapCount := if f.mode = FramerMode.mark ∧ f.markFromGap = true then f.gapCount + 1 else f.gapCount }).fieldCell p c n := by
  unfold Framer.takeCell
  obtain h | h | h := h <;> rw [h]
  · simp
  · rfl
  · rfl

end takeCell

/-- R7, R8: a cell that does not complete its byte. -/
theorem Framer.fieldCell_joins {p : Profile} {f : Framer} (h : f.cells.length + 1 < p.encoding.cellsPerByte)
    (c : RecordedCell) (n : Counts) : f.fieldCell p c n = ⟨{ f with cells := c :: f.cells }, n, none⟩ :=
  if_pos h

/-- R7, R8: the last cell of a byte. -/
theorem Framer.fieldCell_completes {p : Profile} {f : Framer} (h : f.cells.length + 1 = p.encoding.cellsPerByte)
    (c : RecordedCell) (n : Counts) : f.fieldCell p c n = f.byteDone p (c :: f.cells).reverse n :=
  if_neg (Nat.not_lt.2 h.ge)

/-! ## The mark search -/

section hunt

variable {p : Profile} {f : Framer} {c : RecordedCell}

/-- R11: the search under FM and MFM. -/
theorem Framer.hunt_paired (he : p.encoding ≠ .gcr) :
    f.hunt p c =
      if f.matchCount = 0 then (if f.patternSeen p then f.countMatch p else f)
      else if f.sinceMatch + 1 < 16 then { f with sinceMatch := f.sinceMatch + 1 }
      else if f.patternSeen p then f.countMatch p
      else { f with matchCount := 0, sinceMatch := 0 } := by
  unfold Framer.hunt
  split
  next h => exact absurd h he
  next => rfl

/-- R11: where the history is compared, a match is counted. -/
theorem Framer.hunt_match (he : p.encoding ≠ .gcr) (hcompares : f.matchCount = 0 ∨ 15 ≤ f.sinceMatch)
    (hseen : f.patternSeen p = true) :
    f.hunt p c =
      if p.markRepeat ≤ f.matchCount + 1 then
        ({ f with matchCount := f.matchCount + 1, sinceMatch := 0 }).enterMark []
      else { f with matchCount := f.matchCount + 1, sinceMatch := 0 } := by
  rw [Framer.hunt_paired he]
  simp only [hseen, if_true]
  by_cases hcount : f.matchCount = 0
  · rw [if_pos hcount]
    rfl
  · rw [if_neg hcount, if_neg (by omega)]
    rfl

/-- R11: where the history is compared, a mismatch returns the match count to 0. -/
theorem Framer.hunt_mismatch (he : p.encoding ≠ .gcr) (hcompares : f.matchCount = 0 ∨ 15 ≤ f.sinceMatch)
    (hseen : ¬ f.patternSeen p = true) :
    ∃ since, f.hunt p c = { f with matchCount := 0, sinceMatch := since } := by
  rw [Framer.hunt_paired he]
  simp only [hseen, Bool.false_eq_true, if_false]
  by_cases hcount : f.matchCount = 0
  · rw [if_pos hcount]
    exact ⟨f.sinceMatch, by rw [← hcount]⟩
  · rw [if_neg hcount, if_neg (by omega)]
    exact ⟨0, rfl⟩

/-- R11: between a match and the 16th cell after it the history is not compared. -/
theorem Framer.hunt_between (he : p.encoding ≠ .gcr) (hcompares : ¬ (f.matchCount = 0 ∨ 15 ≤ f.sinceMatch)) :
    f.hunt p c = { f with sinceMatch := f.sinceMatch + 1 } := by
  obtain ⟨hcount, hsince⟩ := not_or.1 hcompares
  rw [Framer.hunt_paired he, if_neg hcount, if_pos (by omega)]

/-- R12: the search under GCR. -/
theorem Framer.hunt_gcr (he : p.encoding = .gcr) :
    f.hunt p c =
      if c.one then { f with oneRun := f.oneRun + 1 }
      else if 10 ≤ f.oneRun then f.enterMark [c]
      else { f with oneRun := 0 } := by
  unfold Framer.hunt
  rw [he]

end hunt

/-! ## Settling O38 -/

theorem Profile.gapLimitCells_eq (p : Profile) :
    p.gapLimitCells = p.gapLimit * (if p.encoding = .gcr then 10 else 16) := by
  rw [Profile.gapLimitCells, Encoding.cellsPerByte_eq]

/-- Settles O38: the gap limit decides a cell taken in GAP; the requests act by the framer's state. -/
theorem gapLimitAndRequestsEndTheSearch : Obligations.GapLimitAndRequestsEndTheSearch := by
  intro p f n c
  refine ⟨fun hgap => ?_, fun hstopped => ⟨?_, Framer.takeCell_stopped hstopped p c n⟩, Framer.finish_searching,
    Framer.finish_inside, rfl⟩
  · intro limit r
    have hlimit : limit = p.gapLimitCells := p.gapLimitCells_eq.symm
    obtain hfar | hnear := Nat.lt_or_ge limit (f.gapCount + 1)
    · have hr : r = _ := Framer.takeCell_gap_far p c n hgap (hlimit ▸ hfar)
      rw [hr]
      exact ⟨rfl, fun _ => ⟨rfl, rfl, rfl, rfl, rfl⟩, fun h => absurd h (Nat.not_le.2 hfar)⟩
    · have hr : r = _ := Framer.takeCell_gap_near p c n hgap (hlimit ▸ hnear)
      rw [hr]
      obtain ⟨hheld, hcount, -, hmode⟩ := Framer.hunt_frame p c { f.push c.one with gapCount := f.gapCount + 1 }
      refine ⟨rfl, fun h => absurd h (Nat.not_lt.2 hnear), fun _ => ⟨hheld, hcount, rfl, ?_⟩⟩
      obtain hmode | ⟨hmode, hfrom⟩ := hmode
      · exact .inl (hmode.trans hgap)
      · refine .inr ⟨hmode, hfrom.trans ?_⟩
        change (f.mode == .gap) = true
        rw [hgap]
        rfl
  · unfold Framer.finish
    rw [hstopped]

/-! ## The search's cells -/

/-- R11, R12, R15: a cell of the search is pushed and, in GAP, counted before the search sees it. -/
def Framer.searched (f : Framer) (c : RecordedCell) : Framer :=
  { f.push c.one with gapCount := if f.mode = FramerMode.gap then f.gapCount + 1 else f.gapCount }

theorem Framer.takeCell_search {p : Profile} {f : Framer} (c : RecordedCell) (n : Counts)
    (h : f.mode = .hunt ∨ (f.mode = .gap ∧ f.gapCount + 1 ≤ p.gapLimitCells)) :
    f.takeCell p c n = ⟨(f.searched c).hunt p c, n, none⟩ := by
  unfold Framer.searched
  obtain h | ⟨h, hnear⟩ := h
  · rw [Framer.takeCell_hunt p c n h, if_neg (by rw [h]; decide)]
    rfl
  · rw [Framer.takeCell_gap_near p c n h hnear, if_pos h]

/-- R11: the pattern is seen where the history holds 16 cells that are the pattern. -/
theorem Framer.searched_patternSeen (p : Profile) (f : Framer) (c : RecordedCell) :
    (f.searched c).patternSeen p = true ↔ 15 ≤ f.historyLength ∧ (f.push c.one).cellHistory = p.markPattern := by
  have hlength : (f.searched c).historyLength = min 16 (f.historyLength + 1) := Framer.push_length f c.one
  rw [Framer.patternSeen, Bool.and_eq_true, beq_iff_eq, beq_iff_eq, hlength]
  refine and_congr ?_ Iff.rfl
  omega

theorem Framer.searched_eq (f : Framer) (c : RecordedCell) :
    f.searched c =
      { f with
        cellHistory := (f.push c.one).cellHistory, historyLength := min 16 (f.historyLength + 1)
        gapCount := if f.mode = .gap then f.gapCount + 1 else f.gapCount } := by
  unfold Framer.searched
  rw [Framer.push_eq]

/-- The mark search at one cell, as O35 states it. -/
theorem markSearch_cell (p : Profile) (f : Framer) (n : Counts) (c : RecordedCell)
    (h : f.mode = .hunt ∨ (f.mode = .gap ∧ f.gapCount + 1 ≤ p.gapLimitCells)) :
    let g := f.searched c
    let r := f.takeCell p c n
    let compares := f.matchCount = 0 ∨ 15 ≤ f.sinceMatch
    let seen := 15 ≤ f.historyLength ∧ (f.push c.one).cellHistory = p.markPattern
    (p.encoding ≠ .gcr →
      (compares → seen → f.matchCount + 1 < p.markRepeat →
        r.framer = { g with matchCount := f.matchCount + 1, sinceMatch := 0 })
        ∧ (compares → seen → p.markRepeat ≤ f.matchCount + 1 →
            r.framer = { g.enterMark [] with matchCount := f.matchCount + 1, sinceMatch := 0 })
        ∧ (compares → ¬ seen → r.framer = { g with matchCount := 0, sinceMatch := r.framer.sinceMatch })
        ∧ (¬ compares → r.framer = { g with sinceMatch := f.sinceMatch + 1 }))
      ∧ (p.encoding = .gcr →
          (c.one = true → r.framer = { g with oneRun := f.oneRun + 1 })
            ∧ (c.one = false → 10 ≤ f.oneRun → r.framer = g.enterMark [c])
            ∧ (c.one = false → f.oneRun < 10 → r.framer = { g with oneRun := 0 })) := by
  intro g r compares seen
  have hr : r.framer = g.hunt p c := congrArg FramerStep.framer (Framer.takeCell_search c n h)
  have hseen := Framer.searched_patternSeen p f c
  rw [hr]
  refine ⟨fun he => ⟨fun hc hs hfew => ?_, fun hc hs hmany => ?_, fun hc hs => ?_, fun hc => ?_⟩, fun he => ?_⟩
  · exact (Framer.hunt_match (f := g) he hc (hseen.2 hs)).trans (if_neg (Nat.not_le.2 hfew))
  · exact (Framer.hunt_match (f := g) he hc (hseen.2 hs)).trans (if_pos hmany)
  · obtain ⟨since, hmiss⟩ := Framer.hunt_mismatch (f := g) (c := c) he hc (mt hseen.1 hs)
    rw [hmiss]
  · exact Framer.hunt_between he hc
  · rw [Framer.hunt_gcr he]
    refine ⟨fun hone => if_pos hone, fun hzero hten => ?_, fun hzero hfew => ?_⟩
    · rw [hzero, if_neg Bool.false_ne_true]
      exact if_pos hten
    · rw [hzero, if_neg Bool.false_ne_true]
      exact if_neg (Nat.not_le.2 hfew)

/-! ## A run of cells -/

theorem Framer.takeAll_append (p : Profile) (xs ys : List RecordedCell) (f : Framer) (n : Counts) :
    Framer.takeAll p (xs ++ ys) f n =
      ((Framer.takeAll p ys (Framer.takeAll p xs f n).1 (Framer.takeAll p xs f n).2.1).1,
        (Framer.takeAll p ys (Framer.takeAll p xs f n).1 (Framer.takeAll p xs f n).2.1).2.1,
        (Framer.takeAll p xs f n).2.2
          ++ (Framer.takeAll p ys (Framer.takeAll p xs f n).1 (Framer.takeAll p xs f n).2.1).2.2) := by
  induction xs generalizing f n with
  | nil => rfl
  | cons x xs ih =>
    simp only [List.cons_append, Framer.takeAll, ih, List.append_assoc]

/-- One more cell, taken by a framer that is searching. -/
theorem Framer.takeAll_hunt (p : Profile) (xs : List RecordedCell) (c : RecordedCell) (f : Framer) (n : Counts)
    (h : (Framer.takeAll p xs f n).1.mode = .hunt) :
    Framer.takeAll p (xs ++ [c]) f n =
      (((Framer.takeAll p xs f n).1.takeCell p c (Framer.takeAll p xs f n).2.1).framer, (Framer.takeAll p xs f n).2.1,
        (Framer.takeAll p xs f n).2.2) := by
  rw [Framer.takeAll_append]
  simp only [Framer.takeAll, Framer.takeCell_hunt p c _ h, Option.toList_none, List.append_nil]

/-- The framer after `j` cells of the mark cell pattern, repeated `p.markRepeat` times from a fresh HUNT (R11). -/
structure Framer.Matching (p : Profile) (n : Counts) (j : Nat) (a : Framer × Counts × List FieldPair) : Prop where
  counts : a.2.1 = n
  pairs : a.2.2 = []
  history : ∀ k < 16, k < j → a.1.cellHistory.getLsbD k = p.markPattern.getLsbD (15 - (j - 1 - k) % 16)
  hunting : j < 16 * p.markRepeat →
    a.1.mode = .hunt ∧ a.1.matchCount = j / 16 ∧ a.1.historyLength = min 16 j ∧ (16 ≤ j → a.1.sinceMatch = j % 16)
  marked : j = 16 * p.markRepeat →
    a.1.mode = .mark ∧ a.1.markFromGap = false ∧ a.1.cells = [] ∧ a.1.runViolations = 0

/-- One more cell of the pattern. -/
theorem Framer.Matching.step {p : Profile} {n : Counts} {j : Nat} {a : Framer × Counts × List FieldPair}
    (h : Framer.Matching p n j a) (hj : j < 16 * p.markRepeat) (he : p.encoding ≠ .gcr) {c : RecordedCell}
    (hc : c.one = p.markPattern.getLsbD (15 - j % 16)) :
    Framer.Matching p n (j + 1) ((a.1.takeCell p c a.2.1).framer, a.2.1, a.2.2) := by
  obtain ⟨f, counts, pairs⟩ := a
  obtain ⟨hcounts, hpairs, hhistory, hhunting, -⟩ := h
  obtain ⟨hmode, hcount, hlength, hsince⟩ := hhunting hj
  dsimp only at hcounts hpairs hhistory hmode hcount hlength hsince ⊢
  have hbits : ∀ k < 16, k < j + 1 →
      (f.push c.one).cellHistory.getLsbD k = p.markPattern.getLsbD (15 - (j + 1 - 1 - k) % 16) := by
    intro k hk hkj
    cases k with
    | zero => exact (f.push_history_zero c.one).trans hc
    | succ k =>
      rw [f.push_history_succ c.one (by omega), hhistory k (by omega) (by omega)]
      congr 3
      omega
  obtain ⟨hsearch, -⟩ := markSearch_cell p f counts c (.inl hmode)
  obtain ⟨hmatches, hmarks, hmisses, hbetween⟩ := hsearch he
  have hsearched : (f.searched c).cellHistory = (f.push c.one).cellHistory := rfl
  have hlength' : (f.searched c).historyLength = min 16 (j + 1) := by
    rw [Framer.searched_eq]
    dsimp only
    rw [hlength]
    omega
  have hhunt : (f.searched c).mode = .hunt := hmode
  by_cases hlast : j % 16 = 15
  · -- the 16th cell of a pattern
    have hcompares : f.matchCount = 0 ∨ 15 ≤ f.sinceMatch := by
      by_cases hfirst : j < 16
      · exact .inl (by omega)
      · exact .inr (by have := hsince (by omega); omega)
    have hseen : 15 ≤ f.historyLength ∧ (f.push c.one).cellHistory = p.markPattern := by
      refine ⟨by omega, BitVec.eq_of_getLsbD_eq fun k hk => ?_⟩
      rw [hbits k hk (by omega)]
      congr 1
      omega
    by_cases hmore : f.matchCount + 1 < p.markRepeat
    · rw [hmatches hcompares hseen hmore]
      refine ⟨hcounts, hpairs, hbits, fun _ => ⟨hhunt, ?_, hlength', fun _ => ?_⟩, fun hend => absurd hend (by omega)⟩
      · change f.matchCount + 1 = _
        omega
      · change 0 = _
        omega
    · rw [hmarks hcompares hseen (by omega)]
      refine ⟨hcounts, hpairs, hbits, fun hend => absurd hend (by omega), fun _ => ⟨rfl, ?_, rfl, rfl⟩⟩
      change ((f.searched c).mode == FramerMode.gap) = false
      rw [hhunt]
      rfl
  · have hopen : j + 1 ≠ 16 * p.markRepeat := by omega
    by_cases hfirst : j < 16
    · -- short of 16 cells nothing is seen
      rw [hmisses (.inl (by omega)) (by omega)]
      exact ⟨hcounts, hpairs, hbits,
        fun _ => ⟨hhunt, by change 0 = _; omega, hlength', fun h => absurd h (by omega)⟩,
        fun hend => absurd hend hopen⟩
    · -- between two matches nothing is compared
      have hsince := hsince (by omega)
      rw [hbetween (by omega)]
      exact ⟨hcounts, hpairs, hbits,
        fun _ => ⟨hhunt, by change f.matchCount = _; omega, hlength', fun _ => by change f.sinceMatch + 1 = _; omega⟩,
        fun hend => absurd hend hopen⟩

/-- R11: the pattern repeated mark repeat count times leads from a fresh HUNT to MARK. -/
theorem Framer.takeAll_pattern {p : Profile} {f : Framer} {n : Counts} {cells : List RecordedCell} (hmode : f.mode = .hunt)
    (he : p.encoding ≠ .gcr) (hcount : f.matchCount = 0) (hlength : f.historyLength = 0)
    (hrepeat : 1 ≤ p.markRepeat) (hcells : cells.length = 16 * p.markRepeat)
    (hbits : ∀ j < cells.length, (cells[j]?.map (·.one)) = some (p.markPattern.getLsbD (15 - j % 16))) :
    ∀ j ≤ cells.length, Framer.Matching p n j (Framer.takeAll p (cells.take j) f n) := by
  intro j
  induction j with
  | zero =>
    intro _
    exact ⟨rfl, rfl, fun k _ hk => absurd hk (by omega),
      fun _ => ⟨hmode, hcount, hlength, fun h => absurd h (by omega)⟩, fun h => absurd h (by omega)⟩
  | succ j ih =>
    intro hj
    have hmatching := ih (by omega)
    have hlt : j < cells.length := by omega
    obtain ⟨hhunt, -⟩ := hmatching.hunting (by omega)
    have hbit := hbits j hlt
    rw [List.getElem?_eq_getElem hlt, Option.map_some, Option.some.injEq] at hbit
    rw [List.take_succ_eq_append_getElem hlt, Framer.takeAll_hunt p _ _ f n hhunt]
    have hstep := hmatching.step (by omega) he hbit
    rwa [hmatching.counts] at hstep ⊢

/-- R12: one cells only raise the run count. -/
theorem Framer.takeAll_ones {p : Profile} (he : p.encoding = .gcr) (n : Counts) (ones : List RecordedCell)
    (hones : ∀ c ∈ ones, c.one = true) (f : Framer) (hmode : f.mode = .hunt) :
    let a := Framer.takeAll p ones f n
    a.1.mode = .hunt ∧ a.1.oneRun = f.oneRun + ones.length ∧ a.2.1 = n ∧ a.2.2 = [] := by
  induction ones generalizing f with
  | nil => exact ⟨hmode, rfl, rfl, rfl⟩
  | cons c cs ih =>
    have hcell : f.takeCell p c n = ⟨{ f.push c.one with oneRun := f.oneRun + 1 }, n, none⟩ := by
      rw [Framer.takeCell_hunt p c n hmode, Framer.hunt_gcr he, if_pos (hones c List.mem_cons_self)]
      rfl
    obtain ⟨hm, hrun, hcounts, hpairs⟩ := ih (fun x hx => hones x (List.mem_cons_of_mem _ hx))
      { f.push c.one with oneRun := f.oneRun + 1 } hmode
    simp only [Framer.takeAll, hcell, Option.toList_none, List.nil_append, List.length_cons]
    exact ⟨hm, hrun.trans (by change f.oneRun + 1 + cs.length = _; omega), hcounts, hpairs⟩

/-- R12: a zero cell after ten one cells or more brings the framer to MARK, one after fewer restarts the run. -/
theorem Framer.takeAll_run {p : Profile} (he : p.encoding = .gcr) (n : Counts) {f : Framer} (hmode : f.mode = .hunt)
    (hrun : f.oneRun = 0) {ones : List RecordedCell} {zero : RecordedCell} (hones : ∀ c ∈ ones, c.one = true)
    (hzero : zero.one = false) :
    let a := Framer.takeAll p (ones ++ [zero]) f n
    a.2.1 = n ∧ a.2.2 = []
      ∧ (10 ≤ ones.length →
          a.1.mode = .mark ∧ a.1.markFromGap = false ∧ a.1.cells = [zero] ∧ a.1.runViolations = 0)
      ∧ (ones.length < 10 → a.1.mode = .hunt ∧ a.1.oneRun = 0) := by
  obtain ⟨hm, hcount, hcounts, hpairs⟩ := Framer.takeAll_ones he n ones hones f hmode
  rw [Framer.takeAll_hunt p ones zero f n hm, hcounts, hpairs]
  obtain ⟨-, hsearch⟩ := markSearch_cell p (Framer.takeAll p ones f n).1 n zero (.inl hm)
  obtain ⟨-, hmarks, hrestarts⟩ := hsearch he
  refine ⟨rfl, rfl, fun hten => ?_, fun hfew => ?_⟩
  · dsimp only
    rw [hmarks hzero (by omega)]
    refine ⟨rfl, ?_, rfl, rfl⟩
    change ((Framer.takeAll p ones f n).1.mode == FramerMode.gap) = false
    rw [hm]
    rfl
  · dsimp only
    rw [hrestarts hzero (by omega)]
    exact ⟨hm, rfl⟩

/-- Settles O35: one cell of the search, and from it the two ways from a fresh HUNT to MARK. -/
theorem marksAreFoundInHunt : Obligations.MarksAreFoundInHunt := by
  refine ⟨fun p f n c hmode => ?_, fun p f n cells hmode => ?_⟩
  · intro r
    have hmode : f.mode = .hunt ∨ (f.mode = .gap ∧ f.gapCount + 1 ≤ p.gapLimitCells) := by
      rwa [Profile.gapLimitCells_eq]
    have hr : r = _ := Framer.takeCell_search c n hmode
    obtain hcell := markSearch_cell p f n c hmode
    rw [Framer.searched_eq] at hcell
    exact ⟨by rw [hr], by rw [hr], (f.push c.one).cellHistory, f.push_history_zero c.one,
      fun k hk => f.push_history_succ c.one hk, hcell⟩
  · intro after
    refine ⟨fun he hcount hlength hrepeat hcells hbits => ?_, fun ones zero he hrun hones hzero hcells => ?_⟩
    · have hmatching := Framer.takeAll_pattern (n := n) hmode he hcount hlength hrepeat hcells hbits _ (Nat.le_refl _)
      rw [List.take_length] at hmatching
      obtain ⟨hm, hfrom, hempty, hviolations⟩ := hmatching.marked hcells
      exact ⟨hm, hfrom, hempty, hviolations, hmatching.counts, hmatching.pairs⟩
    · have ha : after = Framer.takeAll p (ones ++ [zero]) f n := by rw [← hcells]
      rw [ha]
      exact Framer.takeAll_run he n hmode hrun hones hzero

end Sys2Proof.Machine
end

section
/-! SUPPORT. The framer byte by byte (R13, R14, R16, R17, R19): what the last cell of a field mark byte and of a field's byte does,
and the obligations they settle. -/

namespace Sys2Proof.Machine

/-! ## The last cell of a byte -/

/-- R11, R15: a framer inside a field that has pushed a cell and, in a MARK entered from GAP, counted it. -/
def Framer.pushed (f : Framer) (c : RecordedCell) : Framer :=
  { f.push c.one with
    gapCount := if f.mode = FramerMode.mark ∧ f.markFromGap = true then f.gapCount + 1 else f.gapCount }

theorem Framer.pushed_eq (f : Framer) (c : RecordedCell) :
    f.pushed c =
      { f with
        cellHistory := (f.push c.one).cellHistory, historyLength := min 16 (f.historyLength + 1)
        gapCount := if f.mode = .mark ∧ f.markFromGap = true then f.gapCount + 1 else f.gapCount } := by
  unfold Framer.pushed
  rw [Framer.push_eq]

/-- R9: the counts with a byte's code violations. -/
def Counts.withViolations (n : Counts) (b : DecodedByte) : Counts :=
  { n with codeViolations := satAdd 65535 n.codeViolations b.violations }

section lastCell

variable {p : Profile} {f : Framer} {c : RecordedCell} {n : Counts} {b : DecodedByte}

/-- R7, R8: a cell that leaves its byte incomplete. -/
theorem Framer.takeCell_joins (h : f.inside) (hshort : f.cells.length + 1 < p.encoding.cellsPerByte) :
    f.takeCell p c n = ⟨{ f.pushed c with cells := c :: f.cells }, n, none⟩ := by
  rw [Framer.takeCell_inside p c n h]
  exact Framer.fieldCell_joins (f := f.pushed c) hshort c n

/-- R13: the last cell of a field mark byte. -/
theorem Framer.takeCell_mark (h : f.mode = .mark) (hlast : f.cells.length + 1 = p.encoding.cellsPerByte)
    (hb : decodeByte p.encoding (c :: f.cells).reverse = b) :
    f.takeCell p c n = (f.pushed c).markByte p b.value (n.withViolations b) := by
  subst hb
  rw [Framer.takeCell_inside p c n (.inl h)]
  refine (Framer.fieldCell_completes (f := f.pushed c) hlast c n).trans ?_
  unfold Framer.byteDone
  rw [show (f.pushed c).mode = .mark from h]
  rfl

/-- R14: the last cell of a byte of an ID field. -/
theorem Framer.takeCell_id (h : f.mode = .id) (hlast : f.cells.length + 1 = p.encoding.cellsPerByte)
    (hb : decodeByte p.encoding (c :: f.cells).reverse = b) :
    f.takeCell p c n = (f.pushed c).idFieldByte p b (n.withViolations b) := by
  subst hb
  rw [Framer.takeCell_inside p c n (.inr (.inl h))]
  refine (Framer.fieldCell_completes (f := f.pushed c) hlast c n).trans ?_
  unfold Framer.byteDone
  rw [show (f.pushed c).mode = .id from h]
  rfl

/-- R17: the last cell of a byte of a data field. -/
theorem Framer.takeCell_data (h : f.mode = .data) (hlast : f.cells.length + 1 = p.encoding.cellsPerByte)
    (hb : decodeByte p.encoding (c :: f.cells).reverse = b) :
    f.takeCell p c n = (f.pushed c).dataFieldByte p b (n.withViolations b) := by
  subst hb
  rw [Framer.takeCell_inside p c n (.inr (.inr h))]
  refine (Framer.fieldCell_completes (f := f.pushed c) hlast c n).trans ?_
  unfold Framer.byteDone
  rw [show (f.pushed c).mode = .data from h]
  rfl

end lastCell

/-! ## The field mark byte -/

section markByte

variable {p : Profile} {b : Byte} {f : Framer} {n : Counts}

/-- R13: the ID mark begins an ID field. -/
theorem Framer.markByte_id (h : b = p.idMark) :
    f.markByte p b n =
      { framer :=
          { f with
            mode := .id, fieldMark := b, heldId := none, gapCount := 0, markFromGap := false, cells := [], bytes := []
            confidences := [] }
        counts := { n with orphanIds := bumpWhen f.markFromGap n.orphanIds }
        pair := none } := if_pos h

/-- R13: a data mark after an ID begins its data field. -/
theorem Framer.markByte_data (hid : b ≠ p.idMark) (hfrom : f.markFromGap = true) (h : b = p.dataMark ∨ b = p.deletedMark) :
    f.markByte p b n =
      { framer :=
          { f with
            mode := .data, fieldMark := b, deletedField := b != p.dataMark, cells := [], bytes := [], confidences := [] }
        counts := n
        pair := none } := by
  have hmark : (f.markFromGap && (b == p.dataMark || b == p.deletedMark)) = true := by
    rw [hfrom, Bool.true_and, Bool.or_eq_true, beq_iff_eq, beq_iff_eq]
    exact h
  exact (if_neg hid).trans (if_pos hmark)

/-- R13: any other byte is a stray mark. -/
theorem Framer.markByte_stray (hid : b ≠ p.idMark) (h : f.markFromGap = true → b ≠ p.dataMark ∧ b ≠ p.deletedMark) :
    f.markByte p b n = f.strayMark p n := by
  have hmark : ¬ (f.markFromGap && (b == p.dataMark || b == p.deletedMark)) = true := by
    rw [Bool.and_eq_true, Bool.or_eq_true, beq_iff_eq, beq_iff_eq]
    rintro ⟨hfrom, hdata | hdeleted⟩
    · exact (h hfrom).1 hdata
    · exact (h hfrom).2 hdeleted
  exact (if_neg hid).trans (if_neg hmark)

end markByte

/-- R13, R16, R19: the framer after a stray mark. -/
theorem Framer.strayMark_framer (p : Profile) (f : Framer) (n : Counts) {late : Prop} [Decidable late]
    (hlate : late ↔ f.markFromGap = true ∧ p.gapLimitCells < f.gapCount) :
    f.strayMark p n =
      { framer :=
          if f.finishing then f.halted
          else if f.markFromGap = true ∧ ¬ late then f.enterGap
          else f.hunting
        counts :=
          { n with strayMarks := satInc 65535 n.strayMarks, orphanIds := bumpWhen (decide late) n.orphanIds }
        pair := none } := by
  have hl : (f.markFromGap && decide (p.gapLimitCells < f.gapCount)) = decide late := by
    rw [decide_eq_decide.2 hlate, Bool.decide_and, Bool.decide_eq_true]
  unfold Framer.strayMark
  dsimp only
  rw [hl]
  simp only [Bool.and_eq_true, Bool.not_eq_true', decide_eq_false_iff_not]
  rfl

theorem bumpWhen_eq (b : Bool) (n : Nat) : bumpWhen b n = if b then (if n < 65535 then n + 1 else n) else n := rfl

/-- Settles O36: the decoded byte against the three marks, in their order. -/
theorem fieldMarkBytesAreClassified : Obligations.FieldMarkBytesAreClassified := by
  intro p f n c hmode hlast b gap late orphans strays seen r
  have hlast : f.cells.length + 1 = p.encoding.cellsPerByte := by rw [Encoding.cellsPerByte_eq, hlast]
  have hr : r = (f.pushed c).markByte p b.value seen := Framer.takeCell_mark hmode hlast rfl
  have hgap : (f.pushed c).gapCount = gap := by
    rw [Framer.pushed_eq]
    simp only [hmode, true_and]
    rfl
  have hlate : late ↔ (f.pushed c).markFromGap = true ∧ p.gapLimitCells < (f.pushed c).gapCount := by
    rw [hgap, Profile.gapLimitCells_eq]
    exact Iff.rfl
  refine ⟨by rw [hr, Framer.markByte_pair], fun hid => ?_, fun hid hfrom hdata => ?_, fun hid hstray => ?_⟩
  · rw [hr, Framer.markByte_id hid]
    refine ⟨rfl, rfl, rfl, rfl, rfl, rfl, ?_⟩
    rfl
  · rw [hr, Framer.markByte_data (f := f.pushed c) hid hfrom hdata]
    refine ⟨rfl, rfl, rfl, ?_, rfl, rfl, rfl, rfl⟩
    simp [bne, Bool.beq_eq_decide_eq]
  · rw [hr, Framer.markByte_stray (f := f.pushed c) hid hstray, Framer.strayMark_framer p _ _ hlate]
    refine ⟨?_, fun hfinishing => ?_, fun hgoes => ?_⟩
    · simp only [bumpWhen_eq, decide_eq_true_eq]
      rfl
    · have hfinishing : (f.pushed c).finishing = true := hfinishing
      simp only [hfinishing, if_true]
      exact ⟨rfl, rfl⟩
    · have hgoes : (f.pushed c).finishing = false := hgoes
      have hfrom : (f.pushed c).markFromGap = f.markFromGap := rfl
      simp only [hgoes, Bool.false_eq_true, if_false, hfrom]
      by_cases hback : f.markFromGap = true ∧ ¬ late
      · rw [if_pos hback]
        refine ⟨fun _ => ⟨rfl, rfl, hgap⟩, fun hhunts => ?_, rfl, rfl⟩
        obtain hno | hyes := hhunts
        · exact absurd (hno.symm.trans hback.1) Bool.false_ne_true
        · exact absurd hyes hback.2
      · rw [if_neg hback]
        exact ⟨fun h => absurd h hback, fun _ => ⟨rfl, rfl⟩, rfl, rfl⟩

/-! ## The bytes of ID and data fields -/

theorem Profile.crcMarksInForce_eq (p : Profile) :
    p.crcMarksInForce = if p.encoding = .gcr then 0 else p.crcMarkCount := by
  unfold Profile.crcMarksInForce
  cases p.encoding <;> rfl

/-- R20, R21: the CRC result of a field. -/
theorem Profile.fieldGood_eq (p : Profile) (mark : Byte) (bytes : List Byte) :
    p.fieldGood mark bytes =
      decide (crcRun p.crcPreset
        (List.replicate (if p.encoding = .gcr then 0 else p.crcMarkCount) p.markValue ++ mark :: bytes) = 0) := by
  rw [Profile.fieldGood, Profile.crcMarksInForce_eq, Bool.beq_eq_decide_eq]

section fieldByte

variable {p : Profile} {b : DecodedByte} {f : Framer} {n : Counts}

/-- R14: a byte of an ID field short of its second CRC byte. -/
theorem Framer.idFieldByte_joins (h : f.bytes.length + 1 < p.idLength + 2) :
    f.idFieldByte p b n =
      ⟨{ f with cells := [], bytes := b.value :: f.bytes, confidences := b.confidence :: f.confidences }, n, none⟩ :=
  if_pos h

/-- R14, R19: the second CRC byte of an ID field. -/
theorem Framer.idFieldByte_ends (h : f.bytes.length + 1 = p.idLength + 2) :
    f.idFieldByte p b n =
      { framer :=
          if f.finishing then f.halted
          else
            { f.enterGap with
              heldId := some (p.extractId (p.fieldGood f.fieldMark (b.value :: f.bytes).reverse)
                ((b.value :: f.bytes).reverse.take p.idLength)
                ((b.confidence :: f.confidences).reverse.take p.idLength))
              gapCount := 0 }
        counts :=
          { n with idCrcBad := bumpWhen (!p.fieldGood f.fieldMark (b.value :: f.bytes).reverse) n.idCrcBad }
        pair := none } :=
  if_neg (Nat.not_lt.2 h.ge)

variable {held : HeldId}

/-- R17: a byte of a data field short of its second CRC byte. -/
theorem Framer.dataFieldByte_joins (hheld : f.heldId = some held) (h : f.bytes.length + 1 < held.dataLength + 2) :
    f.dataFieldByte p b n =
      ⟨{ f with cells := [], bytes := b.value :: f.bytes, confidences := b.confidence :: f.confidences }, n, none⟩ := by
  unfold Framer.dataFieldByte
  rw [hheld]
  exact if_pos h

/-- R17, R19: the second CRC byte of a data field. -/
theorem Framer.dataFieldByte_ends (hheld : f.heldId = some held) (h : f.bytes.length + 1 = held.dataLength + 2) :
    f.dataFieldByte p b n =
      { framer := if f.finishing then f.halted else f.hunting
        counts := n
        pair := some
          { id := held, deleted := f.deletedField, crcGood := p.fieldGood f.fieldMark (b.value :: f.bytes).reverse
            bytes := (b.value :: f.bytes).reverse, confidences := (b.confidence :: f.confidences).reverse } } := by
  unfold Framer.dataFieldByte
  rw [hheld]
  exact if_neg (Nat.not_lt.2 h.ge)

end fieldByte

/-- R3: an ID byte at a position, read among the bytes up to the ID length. -/
theorem Profile.idByte_take (p : Profile) (bytes : List Byte) (k : Nat) :
    p.idByte (bytes.take p.idLength) k = if k < p.idLength then (bytes.getD k 0).toNat else 0 := by
  unfold Profile.idByte
  split
  next h => rw [List.getD_eq_getElem?_getD, List.getElem?_take_of_lt h, List.getD_eq_getElem?_getD]
  next => rfl

/-- R14: the ID extracted from an ID field's bytes. -/
theorem Profile.extractId_eq (p : Profile) (good : Bool) (bytes : List Byte) (confidences : List Nat) :
    let byteAt (k : Nat) : Nat := if k < p.idLength then (bytes.getD k 0).toNat else 0
    let sizeCode := match p.sizePos with | some k => byteAt k | none => 0
    p.extractId good (bytes.take p.idLength) confidences =
      { cylinder := if p.cylWidth = 2 then 256 * byteAt p.cylPos + byteAt (p.cylPos + 1) else byteAt p.cylPos
        head := byteAt p.headPos
        sector := byteAt p.sectorPos
        sizeCode := sizeCode
        illegalSize := decide (p.lengthCode = 0 ∧ 4 ≤ sizeCode)
        crcGood := good
        dataLength :=
          if p.lengthCode = 0 then (if sizeCode < 4 then 128 * 2 ^ sizeCode else 128) else 64 * 2 ^ p.lengthCode
        bytes := bytes.take p.idLength
        confidences := confidences } := by
  unfold Profile.extractId Profile.illegalSize Profile.dataLength
  simp only [Profile.idByte_take, Bool.decide_and] <;> cases p.sizePos <;> rfl

/-! ## The history inside a field -/

section history

variable (p : Profile) (f : Framer) (n : Counts)

/-- What the framer does with a complete byte leaves the cell history. -/
def Framer.HistoryStands (f g : Framer) : Prop := g.cellHistory = f.cellHistory ∧ g.historyLength = f.historyLength

theorem Framer.strayMark_history : f.HistoryStands (f.strayMark p n).framer := by
  unfold Framer.strayMark
  dsimp only
  split <;> [skip; split] <;> exact ⟨rfl, rfl⟩

theorem Framer.markByte_history (b : Byte) : f.HistoryStands (f.markByte p b n).framer := by
  unfold Framer.markByte
  split
  · exact ⟨rfl, rfl⟩
  · split
    · exact ⟨rfl, rfl⟩
    · exact Framer.strayMark_history p f n

theorem Framer.idFieldByte_history (b : DecodedByte) : f.HistoryStands (f.idFieldByte p b n).framer := by
  unfold Framer.idFieldByte
  dsimp only
  split
  · exact ⟨rfl, rfl⟩
  · dsimp only
    split <;> exact ⟨rfl, rfl⟩

theorem Framer.dataFieldByte_history (b : DecodedByte) : f.HistoryStands (f.dataFieldByte p b n).framer := by
  unfold Framer.dataFieldByte
  split
  · dsimp only
    split <;> exact ⟨rfl, rfl⟩
  · dsimp only
    split
    · exact ⟨rfl, rfl⟩
    · dsimp only
      split <;> exact ⟨rfl, rfl⟩

theorem Framer.fieldCell_history (c : RecordedCell) : f.HistoryStands (f.fieldCell p c n).framer := by
  unfold Framer.fieldCell
  dsimp only
  split
  · exact ⟨rfl, rfl⟩
  · unfold Framer.byteDone
    dsimp only
    split
    · exact Framer.markByte_history p f _ _
    · exact Framer.idFieldByte_history p f _ _
    · exact Framer.dataFieldByte_history p f _ _
    · exact ⟨rfl, rfl⟩

end history

/-- R11: inside a field every cell joins the history. -/
theorem Framer.takeCell_history {f : Framer} (h : f.inside) (p : Profile) (c : RecordedCell) (n : Counts) :
    (f.takeCell p c n).framer.cellHistory = (f.push c.one).cellHistory
      ∧ (f.takeCell p c n).framer.historyLength = min 16 (f.historyLength + 1) := by
  rw [Framer.takeCell_inside p c n h]
  obtain ⟨hbits, hlength⟩ := Framer.fieldCell_history p (f.pushed c) n c
  exact ⟨hbits, hlength.trans (Framer.push_length f c.one)⟩

/-- Outside MARK a pushed cell is not counted. -/
theorem Framer.pushed_field {f : Framer} (h : f.mode = .id ∨ f.mode = .data) (c : RecordedCell) :
    f.pushed c =
      { f with cellHistory := (f.push c.one).cellHistory, historyLength := min 16 (f.historyLength + 1) } := by
  have hmark : ¬ (f.mode = .mark ∧ f.markFromGap = true) := by
    rintro ⟨hm, -⟩
    obtain h | h := h <;> cases h.symm.trans hm
  rw [Framer.pushed_eq, if_neg hmark]

/-- Settles O37: each of a field's cells, by whether it completes a byte and whether the byte is the field's last. -/
theorem fieldsEndAtTheirSecondCrcByte : Obligations.FieldsEndAtTheirSecondCrcByte := by
  intro p f n c size b bytes confidences marks good seen r g
  have hsize : size = p.encoding.cellsPerByte := (Encoding.cellsPerByte_eq _).symm
  have hgood : p.fieldGood f.fieldMark bytes = decide good := Profile.fieldGood_eq _ _ _
  refine ⟨fun hin => ?_, fun hin hshort => ?_, fun hlast hmid => ?_, fun hlast hid hend => ?_,
    fun held hlast hdata hheld hend => ?_⟩
  · obtain ⟨hbits, hlength⟩ := Framer.takeCell_history hin p c n
    refine ⟨hlength, ?_, fun k hk => ?_⟩
    · rw [hbits]
      exact f.push_history_zero c.one
    · rw [hbits]
      exact f.push_history_succ c.one hk
  · have hr : r = _ := Framer.takeCell_joins hin (hsize ▸ hshort)
    refine ⟨by rw [hr], by rw [hr], ?_⟩
    obtain ⟨hbits, -⟩ := Framer.takeCell_history hin p c n
    change r.framer.cellHistory = _ at hbits
    change r.framer = { f with cellHistory := r.framer.cellHistory, historyLength := _, cells := _, gapCount := _ }
    rw [hbits, hr, Framer.pushed_eq]
  · have hin : f.mode = .id ∨ f.mode = .data := by
      obtain ⟨h, -⟩ | ⟨h, -⟩ := hmid
      · exact .inl h
      · exact .inr h
    obtain ⟨hbits, -⟩ := Framer.takeCell_history (.inr hin) p c n
    change r.framer.cellHistory = _ at hbits
    have hr : r = ⟨{ f.pushed c with cells := [], bytes := b.value :: f.bytes
                                     confidences := b.confidence :: f.confidences }, seen, none⟩ := by
      obtain ⟨hid, hshort⟩ | ⟨hdata, held, hheld, hshort⟩ := hmid
      · exact (Framer.takeCell_id hid (hsize ▸ hlast) rfl).trans (Framer.idFieldByte_joins (f := f.pushed c) hshort)
      · exact (Framer.takeCell_data hdata (hsize ▸ hlast) rfl).trans
          (Framer.dataFieldByte_joins (f := f.pushed c) hheld hshort)
    refine ⟨by rw [hr], by rw [hr], ?_⟩
    change r.framer = { f with cellHistory := r.framer.cellHistory, historyLength := _, cells := [], bytes := _
                               confidences := _ }
    rw [hbits, hr, Framer.pushed_field hin]
  · intro byteAt sizeCode
    have hr : r = _ :=
      (Framer.takeCell_id hid (hsize ▸ hlast) rfl).trans (Framer.idFieldByte_ends (f := f.pushed c) hend)
    have hgood : p.fieldGood (f.pushed c).fieldMark (b.value :: (f.pushed c).bytes).reverse = decide good := hgood
    rw [hgood] at hr
    rw [hr]
    refine ⟨rfl, ?_, fun hfinishing => ?_, fun hgoes => ?_⟩
    · by_cases hg : good
      · simp only [hg, decide_true, Bool.not_true, bumpWhen_eq, Bool.false_eq_true, if_false, if_true]
        rfl
      · simp only [hg, decide_false, Bool.not_false, bumpWhen_eq, if_false, if_true]
        rfl
    · have hfinishing : (f.pushed c).finishing = true := hfinishing
      simp only [hfinishing, if_true]
      exact ⟨rfl, rfl⟩
    · have hgoes : (f.pushed c).finishing = false := hgoes
      rw [if_neg (by rw [hgoes]; decide)]
      refine ⟨rfl, rfl, rfl, rfl, ?_⟩
      exact congrArg some (Profile.extractId_eq p _ bytes _)
  · have hr : r = _ :=
      (Framer.takeCell_data hdata (hsize ▸ hlast) rfl).trans (Framer.dataFieldByte_ends (f := f.pushed c) hheld hend)
    have hgood : p.fieldGood (f.pushed c).fieldMark (b.value :: (f.pushed c).bytes).reverse = decide good := hgood
    rw [hgood] at hr
    rw [hr]
    refine ⟨rfl, rfl, ?_, ?_⟩
    · change (if f.finishing then (f.pushed c).halted else (f.pushed c).hunting).heldId = none
      cases f.finishing <;> rfl
    · change (if f.finishing then (f.pushed c).halted else (f.pushed c).hunting).mode = _
      cases f.finishing <;> rfl

end Sys2Proof.Machine
end

section
/-! SUPPORT. The bytes that cells form (R7 to R9, R47) and the anchoring of a completed pair (R73 to R77, R83, R84), with the
obligations they settle. -/

namespace Sys2Proof.Machine

/-! ## Bits of a byte -/

/-- R7: the data cells of the pairs. -/
theorem dataCells_getElem (cells : List RecordedCell) (j : Nat) :
    (dataCells cells)[j]? = cells[2 * j + 1]?.map (·.one) := by
  induction j generalizing cells with
  | zero => rcases cells with _ | ⟨a, _ | ⟨b, rest⟩⟩ <;> simp [dataCells]
  | succ j ih =>
    rcases cells with _ | ⟨a, _ | ⟨b, rest⟩⟩
    · simp [dataCells]
    · simp [dataCells]
    · have hplace : 2 * (j + 1) + 1 = 2 * j + 1 + 1 + 1 := by omega
      rw [hplace]
      simpa [dataCells] using ih rest

theorem dataCells_length : ∀ cells : List RecordedCell, (dataCells cells).length = cells.length / 2
  | [] => rfl
  | [_] => by simp [dataCells]
  | _ :: _ :: rest => by simp [dataCells, dataCells_length rest]; omega

/-- A bit shifted into a byte. -/
theorem shiftIn_getLsbD (v : Byte) (b : Bool) {k : Nat} (hk : k < 8) :
    ((v <<< 1) ||| (if b then 1#8 else 0#8)).getLsbD k = if k = 0 then b else v.getLsbD (k - 1) := by
  cases k with
  | zero => cases b <;> simp
  | succ k =>
    have hlt : k < 8 := by omega
    cases b <;> simp [hk, BitVec.getLsbD_eq_getElem hlt]

/-- R7: the last bit shifted in is the lowest. -/
theorem byteOfBits_getLsbD (bits : List Bool) {k : Nat} (hk : k < bits.length) (hbyte : k < 8) :
    (byteOfBits bits).getLsbD k = bits[bits.length - 1 - k] := by
  induction bits using List.reverseRecOn generalizing k with
  | nil => simp at hk
  | append_singleton bits b ih =>
    have hstep : byteOfBits (bits ++ [b]) = (byteOfBits bits <<< 1) ||| (if b then 1#8 else 0#8) := by
      simp [byteOfBits]
    rw [hstep, shiftIn_getLsbD _ _ hbyte]
    cases k with
    | zero => simp
    | succ k =>
      simp only [List.length_append, List.length_singleton] at hk
      rw [if_neg (Nat.succ_ne_zero k), Nat.add_sub_cancel, ih (by omega) (by omega)]
      rw [List.getElem_append_left (by simp; omega)]
      congr 1
      simp
      omega

/-! ## Confidence -/

/-- R47: `q` is the smallest confidence of the cells, at most 15. -/
def SmallestConfidence (q : Nat) (cells : List RecordedCell) : Prop :=
  q ≤ 15 ∧ (∀ c ∈ cells, q ≤ c.confidence) ∧ (q = 15 ∨ ∃ c ∈ cells, c.confidence = q)

theorem leastConfidence_smallest (cells : List RecordedCell) : SmallestConfidence (leastConfidence cells) cells := by
  induction cells using List.reverseRecOn with
  | nil => exact ⟨Nat.le_refl _, nofun, .inl rfl⟩
  | append_singleton cells c ih =>
    obtain ⟨hbound, hall, hsome⟩ := ih
    have hstep : leastConfidence (cells ++ [c]) = min (leastConfidence cells) c.confidence := by
      simp [leastConfidence]
    rw [hstep]
    refine ⟨by omega, fun x hx => ?_, ?_⟩
    · obtain hx | hx := List.mem_append.1 hx
      · have := hall x hx
        omega
      · rw [List.mem_singleton.1 hx]
        omega
    · obtain hle | hlt := Nat.le_total (leastConfidence cells) c.confidence
      · rw [Nat.min_eq_left hle]
        obtain h | ⟨x, hx, hq⟩ := hsome
        · exact .inl h
        · exact .inr ⟨x, List.mem_append_left _ hx, hq⟩
      · rw [Nat.min_eq_right hlt]
        exact .inr ⟨c, List.mem_append_right _ (List.mem_singleton.2 rfl), rfl⟩

/-! ## GCR groups -/

/-- R8: the group table, first cell leftmost, in the order of the nibbles. -/
def gcrGroups : List (List Nat) :=
  [[1, 1, 0, 0, 1], [1, 1, 0, 1, 1], [1, 0, 0, 1, 0], [1, 0, 0, 1, 1], [1, 1, 1, 0, 1], [1, 0, 1, 0, 1],
    [1, 0, 1, 1, 0], [1, 0, 1, 1, 1], [1, 1, 0, 1, 0], [0, 1, 0, 0, 1], [0, 1, 0, 1, 0], [0, 1, 0, 1, 1],
    [1, 1, 1, 1, 0], [0, 1, 1, 0, 1], [0, 1, 1, 1, 0], [0, 1, 1, 1, 1]]

/-- The cells of a group as the table writes them. -/
def groupOf (cells : List RecordedCell) : List Nat := cells.map fun c => if c.one then 1 else 0

/-- R8: the nibbles that the model's table gives are those of the group table. -/
theorem gcrNibble_table : ∀ a b c d e : Bool,
    gcrNibble [a, b, c, d, e] =
      (gcrGroups.idxOf? ([a, b, c, d, e].map fun x => if x then 1 else 0)).map (BitVec.ofNat 4) := by
  decide

theorem gcrNibble_eq {cells : List RecordedCell} (h : cells.length = 5) :
    gcrNibble (cells.map (·.one)) = (gcrGroups.idxOf? (groupOf cells)).map (BitVec.ofNat 4) := by
  match cells, h with
  | [a, b, c, d, e], _ => exact gcrNibble_table a.one b.one c.one d.one e.one

/-- R8: a group of the table stands for its nibble. -/
theorem gcrNibble_some {cells : List RecordedCell} (h : cells.length = 5) {n : Nat}
    (hn : gcrGroups[n]? = some (groupOf cells)) : n < 16 ∧ gcrNibble (cells.map (·.one)) = some (BitVec.ofNat 4 n) := by
  have hplace : ∀ n : Fin 16, gcrGroups.idxOf? (gcrGroups.getD n.val []) = some n.val := by decide
  have hlt : n < 16 := (List.getElem?_eq_some_iff.1 hn).1
  have hgroup : gcrGroups.getD n [] = groupOf cells := by rw [List.getD_eq_getElem?_getD, hn]; rfl
  have hindex := hplace ⟨n, hlt⟩
  rw [hgroup] at hindex
  exact ⟨hlt, by rw [gcrNibble_eq h, hindex]; rfl⟩

/-- R9: a group outside the table. -/
theorem gcrNibble_none {cells : List RecordedCell} (h : cells.length = 5) (hn : groupOf cells ∉ gcrGroups) :
    gcrNibble (cells.map (·.one)) = none := by
  rw [gcrNibble_eq h, List.idxOf?_eq_none_iff.2 hn]
  rfl

/-- R8, R9: what a group stands for, and whether it violates the code. -/
theorem gcrNibble_group {cells : List RecordedCell} (h : cells.length = 5) :
    let v := ((gcrNibble (cells.map (·.one))).getD 0).toNat
    (∀ n, gcrGroups[n]? = some (groupOf cells) → v = n) ∧ (groupOf cells ∉ gcrGroups → v = 0)
      ∧ (if (gcrNibble (cells.map (·.one))).isNone then 1 else 0) = (if groupOf cells ∈ gcrGroups then 0 else 1) := by
  refine ⟨fun n hn => ?_, fun hn => ?_, ?_⟩
  · obtain ⟨hlt, hnibble⟩ := gcrNibble_some h hn
    rw [hnibble]
    exact Nat.mod_eq_of_lt hlt
  · rw [gcrNibble_none h hn]
    rfl
  · by_cases hmem : groupOf cells ∈ gcrGroups
    · obtain ⟨n, hn⟩ := List.mem_iff_getElem?.1 hmem
      obtain ⟨-, hnibble⟩ := gcrNibble_some h hn
      rw [hnibble, if_pos hmem]
      rfl
    · rw [gcrNibble_none h hmem, if_neg hmem]
      rfl

/-- The two nibbles of a byte. -/
theorem append_nibbles (hi lo : BitVec 4) :
    (hi ++ lo : Byte).toNat / 16 % 16 = hi.toNat ∧ (hi ++ lo : Byte).toNat / 1 % 16 = lo.toNat := by
  rw [BitVec.toNat_append, ← Nat.shiftLeft_add_eq_or_of_lt lo.isLt, Nat.shiftLeft_eq]
  have := hi.isLt
  have := lo.isLt
  constructor <;> omega

/-- R7, R47: a byte under FM and MFM. -/
theorem decodeByte_paired {e : Encoding} (he : e ≠ .gcr) (cells : List RecordedCell) :
    decodeByte e cells = ⟨byteOfBits (dataCells cells), leastConfidence cells, 0⟩ := by
  cases e with
  | gcr => exact absurd rfl he
  | fm => rfl
  | mfm => rfl

/-- Settles O34: the pairs' second cells under FM and MFM, the group table under GCR. -/
theorem bytesDecodeFromTheirCells : Obligations.BytesDecodeFromTheirCells := by
  unfold Obligations.BytesDecodeFromTheirCells
  intro groups smallest cells
  refine ⟨fun hlength e he => ?_, fun hlength => ?_⟩
  · rw [decodeByte_paired he]
    refine ⟨fun j hj => ?_, rfl, leastConfidence_smallest cells⟩
    have hpairs : (dataCells cells).length = 8 := by rw [dataCells_length, hlength]
    rw [byteOfBits_getLsbD _ (by omega) (by omega), ← dataCells_getElem, List.getElem?_eq_getElem (by omega),
      Option.getD_some]
    congr 1
    omega
  · intro b group
    have hhigh : (cells.take 5).length = 5 := by rw [List.length_take]; omega
    have hlow : (cells.drop 5).length = 5 := by rw [List.length_drop]; omega
    obtain ⟨hhigh_some, hhigh_none, hhigh_bad⟩ := gcrNibble_group hhigh
    obtain ⟨hlow_some, hlow_none, hlow_bad⟩ := gcrNibble_group hlow
    have hgroup0 : group 0 = groupOf (cells.take 5) := rfl
    have hgroup1 : group 1 = groupOf (cells.drop 5) := by
      change groupOf ((cells.drop 5).take 5) = _
      rw [List.take_of_length_le (by omega)]
    obtain ⟨hvalue_high, hvalue_low⟩ := append_nibbles ((gcrNibble ((cells.take 5).map (·.one))).getD 0)
      ((gcrNibble ((cells.drop 5).map (·.one))).getD 0)
    have hviolations : b.violations = (if group 0 ∈ groups then 0 else 1) + (if group 1 ∈ groups then 0 else 1) := by
      rw [hgroup0, hgroup1]
      exact congrArg₂ (· + ·) hhigh_bad hlow_bad
    refine ⟨fun k hk => ?_, hviolations, fun hgood => ?_, fun hbad => ?_⟩
    · interval_cases k
      · rw [hgroup0]
        exact ⟨fun n hn => hvalue_high.trans (hhigh_some n hn), fun hn => hvalue_high.trans (hhigh_none hn)⟩
      · rw [hgroup1]
        exact ⟨fun n hn => hvalue_low.trans (hlow_some n hn), fun hn => hvalue_low.trans (hlow_none hn)⟩
    · have hconfidence : b.confidence = leastConfidence cells := if_pos hgood
      rw [hconfidence]
      exact leastConfidence_smallest cells
    · exact if_neg hbad

/-! ## Anchoring -/

theorem Descriptor.onTrack_iff {d : Descriptor} {h : HeldId} :
    d.onTrack h = true ↔ h.cylinder = d.cylinder ∧ h.head = d.head := by
  simp [Descriptor.onTrack]

theorem LaneEnv.inGeometry_iff {env : LaneEnv} {h : HeldId} :
    env.inGeometry h = true ↔
      env.volume.firstSector ≤ h.sector ∧ h.sector < env.volume.firstSector + env.volume.sectorsPerTrack
        ∧ h.illegalSize = false := by
  simp [LaneEnv.inGeometry, Volume.holdsSector_iff, Volume.Holds, and_assoc]

theorem LaneEnv.trusts_iff {env : LaneEnv} {h : HeldId} :
    env.trusts h = true ↔ ∀ q ∈ h.confidences, env.trustFloor ≤ q := by
  simp [LaneEnv.trusts]

/-- R17: a cell that completes no pair. -/
theorem Lane.takeCell_none {env : LaneEnv} {d : Descriptor} {c : RecordedCell} {l : Lane}
    (h : (l.framer.takeCell env.profile c l.counts).pair = none) :
    l.takeCell env d c =
      { l with
        framer := (l.framer.takeCell env.profile c l.counts).framer
        counts := (l.framer.takeCell env.profile c l.counts).counts } := by
  unfold Lane.takeCell
  dsimp only
  rw [h]

/-- R74: a cell that completes a pair, which is anchored at once. -/
theorem Lane.takeCell_some {env : LaneEnv} {d : Descriptor} {c : RecordedCell} {l : Lane} {x : FieldPair}
    (h : (l.framer.takeCell env.profile c l.counts).pair = some x) :
    l.takeCell env d c =
      Lane.anchor env d x
        { l with
          framer := (l.framer.takeCell env.profile c l.counts).framer
          counts := (l.framer.takeCell env.profile c l.counts).counts } := by
  unfold Lane.takeCell
  dsimp only
  rw [h]

section anchor

variable {env : LaneEnv} {d : Descriptor} {x : FieldPair} {l : Lane}

/-- R75: a good ID off the track. -/
theorem Lane.anchor_offTrack (hgood : x.id.crcGood = true) (hoff : ¬ d.onTrack x.id = true) :
    l.anchor env d x = l.seekMismatch env := by
  simp [Lane.anchor, hgood, hoff]

/-- R66, R75: a seek mismatch is counted, and in CAPTURING ends capture at the limit. -/
theorem Lane.seekMismatch_eq (env : LaneEnv) (l : Lane) :
    l.seekMismatch env =
      if l.state = .capturing ∧ env.seekLimit ≤ satInc 255 l.counts.seekMismatches then
        { l with
          counts := { l.counts with seekMismatches := satInc 255 l.counts.seekMismatches }, state := .finishing
          cause := if l.cause = none then some .seekMismatch else l.cause
          request := some (Config.finishDelay env.number.val l.freeCount), freeCount := l.freeCount + 1 }
      else { l with counts := { l.counts with seekMismatches := satInc 255 l.counts.seekMismatches } } := by
  rw [← Lane.recordCause_cause l]
  rfl

/-- R75: a good ID on the track but outside the geometry. -/
theorem Lane.anchor_outside (hgood : x.id.crcGood = true) (hon : d.onTrack x.id = true)
    (hout : ¬ env.inGeometry x.id = true) :
    l.anchor env d x = { l with counts := { l.counts with outOfGeometry := satInc 65535 l.counts.outOfGeometry } } := by
  simp [Lane.anchor, hgood, hon, hout]

/-- R76: a bad ID that does not fit or is not trusted. -/
theorem Lane.anchor_unanchored (hbad : x.id.crcGood = false)
    (hno : ¬ (d.onTrack x.id = true ∧ env.inGeometry x.id = true ∧ env.trusts x.id = true)) :
    l.anchor env d x = { l with counts := { l.counts with unanchored := satInc 65535 l.counts.unanchored } } := by
  have hno : ¬ (d.onTrack x.id && env.inGeometry x.id && env.trusts x.id) = true := by
    simpa [and_assoc] using hno
  rw [Lane.anchor, hbad, if_neg Bool.false_ne_true, if_neg hno]

/-- R74, R76: a pair that is kept. -/
theorem Lane.anchor_kept (hon : d.onTrack x.id = true) (hin : env.inGeometry x.id = true)
    (hkept : x.id.crcGood = true ∨ env.trusts x.id = true) : l.anchor env d x = l.complete env d x := by
  cases hgood : x.id.crcGood with
  | true => simp [Lane.anchor, hgood, hon, hin]
  | false =>
    have htrusts : env.trusts x.id = true := hkept.resolve_left (by rw [hgood]; decide)
    simp [Lane.anchor, hgood, hon, hin, htrusts]

end anchor

/-- Settles O39: the two flags of the ID's fit and trust decide the anchoring; the queue's room decides the rest. -/
theorem fieldPairsAreAnchoredAndQueued : Obligations.FieldPairsAreAnchoredAndQueued := by
  refine ⟨fun s i d => rfl, fun env d c l => ?_, fun env d x l => ?_⟩
  · intro r l'
    exact ⟨Lane.takeCell_none, fun x => Lane.takeCell_some⟩
  · intro onTrack fits trusted up attempt kept
    have hon : d.onTrack x.id = true ↔ onTrack := Descriptor.onTrack_iff
    have hfits : env.inGeometry x.id = true ↔ fits := LaneEnv.inGeometry_iff
    have htrusts : env.trusts x.id = true ↔ trusted := LaneEnv.trusts_iff
    refine ⟨fun hgood hoff => ?_, fun hgood htrack hout => ?_, fun hbad hno => ?_, fun htrack hin hkept => ?_⟩
    · intro m
      rw [Lane.anchor_offTrack hgood (mt hon.1 hoff)]
      exact Lane.seekMismatch_eq env l
    · exact Lane.anchor_outside hgood (hon.2 htrack) (mt hfits.1 hout)
    · exact Lane.anchor_unanchored hbad (by rwa [hon, hfits, htrusts])
    · rw [Lane.anchor_kept (hon.2 htrack) (hfits.2 hin) (hkept.imp_right htrusts.2)]
      exact ⟨fun hroom => if_pos hroom, fun hfull => if_neg (Nat.not_lt.2 hfull)⟩

end Sys2Proof.Machine
end

section
/-! SUPPORT. The way of an interval's cells through a lane (R38, R46, R66): what one cell does to the request on its way, runs of
cells that complete no byte, and the finish request's arrival. -/

namespace Sys2Proof.Machine

/-! ## One cell and the request -/

/-- What anchoring does to the state and the request on its way: nothing, or what a seek mismatch that ends capture does. -/
theorem Lane.anchor_request (env : LaneEnv) (d : Descriptor) (x : FieldPair) (l : Lane) :
    ((l.anchor env d x).state = l.state ∧ (l.anchor env d x).request = l.request
        ∧ (l.anchor env d x).freeCount = l.freeCount)
      ∨ (l.state = .capturing ∧ (l.anchor env d x).state = .finishing
        ∧ (l.anchor env d x).request = some (Config.finishDelay env.number.val l.freeCount)
        ∧ (l.anchor env d x).freeCount = l.freeCount + 1) := by
  have hcomplete : (l.complete env d x).state = l.state ∧ (l.complete env d x).request = l.request
      ∧ (l.complete env d x).freeCount = l.freeCount := by
    unfold Lane.complete Lane.offer
    split <;> exact ⟨rfl, rfl, rfl⟩
  unfold Lane.anchor
  split
  · split
    · rw [Lane.seekMismatch_eq]
      split
      next h => exact .inr ⟨h.1, rfl, rfl, rfl⟩
      next => exact .inl ⟨rfl, rfl, rfl⟩
    · split
      · exact .inl ⟨rfl, rfl, rfl⟩
      · exact .inl hcomplete
  · split
    · exact .inl hcomplete
    · exact .inl ⟨rfl, rfl, rfl⟩

/-- R17: a cell that completes a pair leaves the framer in HUNT or STOPPED. -/
theorem Framer.takeCell_pair_mode {p : Profile} {c : RecordedCell} {f : Framer} {n : Counts} {x : FieldPair}
    (h : (f.takeCell p c n).pair = some x) :
    (f.takeCell p c n).framer.mode = .hunt ∨ (f.takeCell p c n).framer.mode = .stopped := by
  have hmove := Framer.Move.takeCell p c f n
  rw [h] at hmove
  cases hmove with
  | pair e cells crc hdata hheld hlength hbytes hconf hmode hshape =>
    rw [hshape.mode_eq]
    exact hmode

/-- R66, R75: what one cell does to the state and the request on its way. -/
theorem Lane.takeCell_request (env : LaneEnv) (d : Descriptor) (c : RecordedCell) (l : Lane) :
    ((l.takeCell env d c).state = l.state ∧ (l.takeCell env d c).request = l.request
        ∧ (l.takeCell env d c).freeCount = l.freeCount)
      ∨ (l.state = .capturing ∧ (l.takeCell env d c).state = .finishing
        ∧ (l.takeCell env d c).request = some (Config.finishDelay env.number.val l.freeCount)
        ∧ (l.takeCell env d c).freeCount = l.freeCount + 1
        ∧ ((l.takeCell env d c).framer.mode = .hunt ∨ (l.takeCell env d c).framer.mode = .stopped)) := by
  cases h : (l.framer.takeCell env.profile c l.counts).pair with
  | none =>
    rw [Lane.takeCell_none h]
    exact .inl ⟨rfl, rfl, rfl⟩
  | some x =>
    rw [Lane.takeCell_some h]
    obtain hsame | ⟨hstate, hends, hrequest, hcount⟩ := Lane.anchor_request env d x
      { l with
        framer := (l.framer.takeCell env.profile c l.counts).framer
        counts := (l.framer.takeCell env.profile c l.counts).counts }
    · exact .inl hsame
    · refine .inr ⟨hstate, hends, hrequest, hcount, ?_⟩
      rw [(Lane.anchor_queue env d x _).1]
      exact Framer.takeCell_pair_mode h

/-! ## Runs of cells -/

/-- The lane after the framer has taken these cells, without any finish request that arrives meanwhile. -/
def Lane.afterCells (env : LaneEnv) (d : Descriptor) (cells : List RecordedCell) (l : Lane) : Lane :=
  cells.foldl (fun m c => m.takeCell env d c) l

/-- The framer after these cells. -/
def Framer.run (p : Profile) (n : Counts) (cells : List RecordedCell) (f : Framer) : Framer :=
  cells.foldl (fun f c => (f.takeCell p c n).framer) f

/-- A framer that completes no byte within the next `k` cells: hunting, in a MARK with room for them, or STOPPED. -/
def Framer.Quiet (p : Profile) (k : Nat) (f : Framer) : Prop :=
  f.mode = .stopped ∨ f.mode = .hunt ∨ (f.mode = .mark ∧ f.cells.length + k < p.encoding.cellsPerByte)

/-- A mark found by the search begins with at most one cell of its field mark byte. -/
theorem Framer.hunt_mark (p : Profile) (c : RecordedCell) (f : Framer) (h : f.mode = .hunt) :
    (f.hunt p c).mode = .hunt ∨ ((f.hunt p c).mode = .mark ∧ (f.hunt p c).cells.length ≤ 1) := by
  unfold Framer.hunt Framer.countMatch Framer.enterMark
  dsimp only
  split <;> (repeat' split) <;> simp [h]

/-- One cell of a quiet run: nothing is counted or reported, a mark once found stays, and STOPPED stays. -/
theorem Framer.Quiet.step {p : Profile} {k : Nat} {f : Framer} (h : f.Quiet p (k + 1)) (hk : k + 1 < p.encoding.cellsPerByte)
    (c : RecordedCell) (n : Counts) :
    (f.takeCell p c n).counts = n ∧ (f.takeCell p c n).pair = none ∧ (f.takeCell p c n).framer.Quiet p k
      ∧ (f.mode ≠ .hunt → (f.takeCell p c n).framer.mode = f.mode)
      ∧ (f.mode = .hunt → (f.takeCell p c n).framer.mode ≠ .stopped) := by
  obtain hstopped | hhunt | ⟨hmark, hroom⟩ := h
  · rw [Framer.takeCell_stopped hstopped]
    exact ⟨rfl, rfl, .inl hstopped, fun _ => rfl, fun h => absurd (hstopped.symm.trans h) (by decide)⟩
  · rw [Framer.takeCell_hunt p c n hhunt]
    obtain hstays | ⟨hfound, hfew⟩ := Framer.hunt_mark p c (f.push c.one) hhunt
    · exact ⟨rfl, rfl, .inr (.inl hstays), fun h => absurd hhunt h, fun _ => by rw [hstays]; decide⟩
    · exact ⟨rfl, rfl, .inr (.inr ⟨hfound, Nat.lt_of_le_of_lt (Nat.add_le_add_right hfew k) (by omega)⟩),
        fun h => absurd hhunt h, fun _ => by rw [hfound]; decide⟩
  · rw [Framer.takeCell_joins (.inl hmark) (by omega)]
    refine ⟨rfl, rfl, .inr (.inr ⟨hmark, ?_⟩), fun _ => rfl, fun h => absurd (hmark.symm.trans h) (by decide)⟩
    change f.cells.length + 1 + k < _
    omega

/-- A cell of a quiet run at a lane changes the framer only. -/
theorem Framer.Quiet.takeCell {env : LaneEnv} {k : Nat} {l : Lane} (h : l.framer.Quiet env.profile (k + 1))
    (hk : k + 1 < env.profile.encoding.cellsPerByte) (d : Descriptor) (c : RecordedCell) :
    l.takeCell env d c = { l with framer := (l.framer.takeCell env.profile c l.counts).framer } := by
  obtain ⟨hcounts, hpair, -⟩ := h.step hk c l.counts
  rw [Lane.takeCell_none hpair, hcounts]

/-- A quiet run at a lane changes the framer only. -/
theorem Lane.afterCells_quiet {env : LaneEnv} (d : Descriptor) (cells : List RecordedCell) {l : Lane}
    (h : l.framer.Quiet env.profile cells.length) (hk : cells.length < env.profile.encoding.cellsPerByte) :
    l.afterCells env d cells = { l with framer := l.framer.run env.profile l.counts cells } := by
  induction cells generalizing l with
  | nil => rfl
  | cons c cs ih =>
    obtain ⟨-, -, hquiet, -⟩ := h.step hk c l.counts
    refine Eq.trans (congrArg (Lane.afterCells env d cs) (h.takeCell hk d c)) ?_
    exact ih (l := { l with framer := (l.framer.takeCell env.profile c l.counts).framer }) hquiet (by
      rw [List.length_cons] at hk
      omega)

/-- A framer STOPPED stays as it is. -/
theorem Framer.run_stopped {p : Profile} {n : Counts} (cells : List RecordedCell) {f : Framer} (h : f.mode = .stopped) :
    f.run p n cells = f := by
  induction cells with
  | nil => rfl
  | cons c cs ih =>
    refine Eq.trans ?_ ih
    exact congrArg (fun r => Framer.run p n cs r.framer) (Framer.takeCell_stopped h p c n)

/-- A quiet run out of a mark stays in it, and a finish request kept meanwhile changes nothing else. -/
theorem Framer.run_mark {p : Profile} {n : Counts} (cells : List RecordedCell) {f : Framer} (h : f.mode = .mark)
    (hroom : f.cells.length + cells.length < p.encoding.cellsPerByte) :
    (f.run p n cells).mode = .mark
      ∧ ({ f with finishing := true } : Framer).run p n cells = { f.run p n cells with finishing := true } := by
  induction cells generalizing f with
  | nil => exact ⟨h, rfl⟩
  | cons c cs ih =>
    rw [List.length_cons] at hroom
    have hcell : (f.takeCell p c n).framer = { f.pushed c with cells := c :: f.cells } := by
      rw [Framer.takeCell_joins (.inl h) (by omega)]
    have hcell' : (({ f with finishing := true } : Framer).takeCell p c n).framer =
        { { f.pushed c with cells := c :: f.cells } with finishing := true } := by
      rw [Framer.takeCell_joins (f := { f with finishing := true }) (.inl h) (by change f.cells.length + 1 < _; omega)]
      rfl
    have hroom' : ({ f.pushed c with cells := c :: f.cells } : Framer).cells.length + cs.length
        < p.encoding.cellsPerByte := by
      change f.cells.length + 1 + cs.length < _
      omega
    obtain ⟨hmode, hrun⟩ := ih (f := { f.pushed c with cells := c :: f.cells }) h hroom'
    unfold Framer.run at hmode hrun ⊢
    rw [List.foldl_cons, List.foldl_cons, hcell, hcell']
    exact ⟨hmode, hrun⟩

/-- Without a request on its way the cells are simply taken, as long as no seek mismatch ends capture. -/
theorem Lane.takeCells_quiet {env : LaneEnv} (d : Descriptor) (cells : List RecordedCell) {l : Lane}
    (h : l.framer.Quiet env.profile cells.length) (hk : cells.length < env.profile.encoding.cellsPerByte)
    (hrequest : l.request = none) : Lane.takeCells env d cells l = l.afterCells env d cells := by
  induction cells generalizing l with
  | nil => rfl
  | cons c cs ih =>
    obtain ⟨-, -, hquiet, -⟩ := h.step hk c l.counts
    have hcell := h.takeCell hk d c
    have hk' : cs.length < env.profile.encoding.cellsPerByte := by rw [List.length_cons] at hk; omega
    have hnone : (l.takeCell env d c).request = none := by rw [hcell]; exact hrequest
    have hstep : (l.requestNears.takeCell env d c).requestArrives = l.takeCell env d c := by
      rw [(Lane.request_none hrequest).1, (Lane.request_none hnone).2]
    refine Eq.trans (congrArg (Lane.takeCells env d cs) hstep) ?_
    refine ih ?_ hk' hnone
    rw [hcell]
    exact hquiet

/-! ## The arrival of a finish request -/

/-- What the arrival of a finish request after `r` of an interval's cells leaves of lane `l`, in FINISHING, by the state in
which the framer stands then (R19, R66, log entry 6). -/
structure Lane.Arrives (env : LaneEnv) (l : Lane) (cells : List RecordedCell) (r : Nat) (m : Lane) : Prop where
  waits : (l.framer.run env.profile l.counts (cells.take (min r cells.length))).mode = .hunt → cells.length < r →
    m = { l with
          framer := l.framer.run env.profile l.counts cells, request := some (r - cells.length) }
  halts : (l.framer.run env.profile l.counts (cells.take (min r cells.length))).mode = .hunt → r ≤ cells.length →
    m = { l with
          framer := (l.framer.run env.profile l.counts (cells.take r)).halted, request := none, interval := none
          state := .draining }
  finishes : (l.framer.run env.profile l.counts (cells.take (min r cells.length))).mode = .mark →
    m = { l with
          framer := { l.framer.run env.profile l.counts cells with finishing := true }, request := none }
  stands : (l.framer.run env.profile l.counts (cells.take (min r cells.length))).mode = .stopped →
    m = { l with
          framer := l.framer.run env.profile l.counts cells
          request := if r ≤ cells.length then none else some (r - cells.length), interval := none, state := .draining }

/-- A lane without a request, its framer STOPPED, takes cells without a change. -/
theorem Lane.takeCells_stopped {env : LaneEnv} (d : Descriptor) (cells : List RecordedCell) {l : Lane}
    (h : l.framer.mode = .stopped) (hk : cells.length < env.profile.encoding.cellsPerByte)
    (hrequest : l.request = none) : Lane.takeCells env d cells l = l := by
  rw [Lane.takeCells_quiet d cells (.inl h) hk hrequest, Lane.afterCells_quiet d cells (.inl h) hk,
    Framer.run_stopped cells h]

theorem Framer.finish_stopped {f : Framer} (h : f.mode = .stopped) : f.finish = f := by
  unfold Framer.finish
  rw [h]

/-- R66: a request that has arrived at a framer outside a field. -/
theorem Lane.requestArrives_now {l : Lane} (h : ¬ l.framer.inside) (hstate : l.state = .finishing) :
    ({ l with request := some 0 } : Lane).requestArrives =
      { l with request := none, framer := l.framer.finish, interval := none, state := .draining } := by
  unfold Lane.requestArrives
  rw [if_pos (.inl rfl)]
  refine (Lane.requestFinish_outside (l := { l with request := none }) h).trans ?_
  simp only [hstate, if_true]

/-- R66: a request at a framer inside a field has its field finished. -/
theorem Lane.requestArrives_inside {l : Lane} (h : l.framer.inside) {r : Nat} (hrequest : l.request = some r) :
    l.requestArrives = { l with request := none, framer := { l.framer with finishing := true } } := by
  unfold Lane.requestArrives
  rw [if_pos (.inr ⟨by rw [hrequest]; rfl, Framer.insideField_iff.2 h⟩)]
  exact Lane.requestFinish_inside (l := { l with request := none }) h

/-- A request comes nearer with each cell that the framer takes in a quiet run. -/
theorem Lane.requestNears_quiet {env : LaneEnv} {k r : Nat} {l : Lane} (h : l.framer.Quiet env.profile (k + 1))
    (hk : k + 1 < env.profile.encoding.cellsPerByte) (d : Descriptor) (c : RecordedCell) :
    (({ l with request := some (r + 1) } : Lane).requestNears).takeCell env d c =
      { l with framer := (l.framer.takeCell env.profile c l.counts).framer, request := some r } :=
  Framer.Quiet.takeCell (l := { l with request := some r }) h hk d c

section arrival

variable {env : LaneEnv} {d : Descriptor}

/-- A request on its way to a framer that is STOPPED. -/
theorem Lane.request_stopped (cells : List RecordedCell) {l : Lane} (h : l.framer.mode = .stopped)
    (hk : cells.length < env.profile.encoding.cellsPerByte) (hstate : l.state = .finishing) (r : Nat) :
    (Lane.takeCells env d cells ({ l with request := some r } : Lane).requestArrives).settleFraming =
      { l with
        request := if r ≤ cells.length then none else some (r - cells.length), interval := none
        state := .draining } := by
  have houtside : ¬ l.framer.inside := fun hin => Framer.running_of_inside hin h
  induction cells generalizing r with
  | nil =>
    cases r with
    | zero =>
      rw [Lane.requestArrives_now houtside hstate, Framer.finish_stopped h]
      exact Lane.settleFraming_stopped h
    | succ r =>
      rw [Lane.requestArrives_waits (n := r) rfl (by
        rw [Bool.eq_false_iff]
        exact mt Framer.insideField_iff.1 houtside)]
      refine (Lane.settleFraming_stopped (l := { l with request := some (r + 1) }) h).trans ?_
      simp only [hstate, if_true]
      rfl
  | cons c cs ih =>
    rw [List.length_cons] at hk
    cases r with
    | zero =>
      rw [Lane.requestArrives_now houtside hstate, Framer.finish_stopped h,
        Lane.takeCells_stopped d (c :: cs) (l := { l with request := none, interval := none, state := .draining }) h hk
          rfl]
      exact Lane.settleFraming_stopped h
    | succ r =>
      rw [Lane.requestArrives_waits (n := r) rfl (by
        rw [Bool.eq_false_iff]
        exact mt Framer.insideField_iff.1 houtside)]
      have hcell := Lane.requestNears_quiet (r := r) (l := l) (k := cs.length) (.inl h) hk d c
      rw [Framer.takeCell_stopped h] at hcell
      have hstep := (congrArg (fun m => (Lane.takeCells env d cs m.requestArrives).settleFraming) hcell).trans
        (ih (by omega) r)
      refine hstep.trans ?_
      simp only [List.length_cons, Nat.add_le_add_iff_right, Nat.add_sub_add_right]

/-- A request that reaches a hunting framer before the interval's first cell. -/
theorem Lane.request_now (cells : List RecordedCell) {l : Lane} (h : l.framer.mode = .hunt)
    (hk : cells.length < env.profile.encoding.cellsPerByte) (hstate : l.state = .finishing) :
    l.Arrives env cells 0
      ((Lane.takeCells env d cells ({ l with request := some 0 } : Lane).requestArrives).settleFraming) := by
  have houtside : ¬ l.framer.inside := by simp [Framer.inside, h]
  have hleft : (Lane.takeCells env d cells ({ l with request := some 0 } : Lane).requestArrives).settleFraming =
      { l with framer := l.framer.halted, request := none, interval := none, state := .draining } := by
    rw [Lane.requestArrives_now houtside hstate, Framer.finish_searching (.inl h),
      Lane.takeCells_stopped d cells
        (l := { l with request := none, framer := l.framer.halted, interval := none, state := .draining }) rfl hk rfl]
    exact Lane.settleFraming_stopped rfl
  rw [hleft]
  rw [← Nat.zero_min cells.length] at *
  refine ⟨fun _ hlt => absurd hlt (Nat.not_lt.2 (Nat.zero_le _)), fun _ _ => rfl, fun hmark => ?_, fun hstopped => ?_⟩
  · cases h.symm.trans hmark
  · cases h.symm.trans hstopped

/-- A request on its way when the framer finds a mark, whose field it then has finished. -/
theorem Lane.request_marked (cells : List RecordedCell) {l : Lane} (h : l.framer.mode = .mark)
    (hroom : l.framer.cells.length + cells.length < env.profile.encoding.cellsPerByte) (r : Nat) :
    (Lane.takeCells env d cells ({ l with request := some r } : Lane).requestArrives).settleFraming =
      { l with framer := { l.framer.run env.profile l.counts cells with finishing := true }, request := none } := by
  obtain ⟨hmode, hrun⟩ := Framer.run_mark (n := l.counts) cells h hroom
  have hquiet : ({ l.framer with finishing := true } : Framer).Quiet env.profile cells.length := .inr (.inr ⟨h, hroom⟩)
  have hk : cells.length < env.profile.encoding.cellsPerByte := by omega
  rw [Lane.requestArrives_inside (l := { l with request := some r }) (.inl h) rfl,
    Lane.takeCells_quiet d cells (l := { l with request := none, framer := { l.framer with finishing := true } }) hquiet
      hk rfl,
    Lane.afterCells_quiet d cells (l := { l with request := none, framer := { l.framer with finishing := true } }) hquiet
      hk]
  dsimp only
  rw [hrun]
  exact Lane.settleFraming_running (by dsimp only; rw [hmode]; decide)

/-- R66, log entry 6: a request on its way to a framer that is hunting. -/
theorem Lane.request_hunting (cells : List RecordedCell) {l : Lane} (h : l.framer.mode = .hunt)
    (hk : cells.length + 1 < env.profile.encoding.cellsPerByte) (hstate : l.state = .finishing) (r : Nat) :
    l.Arrives env cells r
      ((Lane.takeCells env d cells ({ l with request := some r } : Lane).requestArrives).settleFraming) := by
  induction cells generalizing l r with
  | nil =>
    cases r with
    | zero => exact Lane.request_now [] h (by omega) hstate
    | succ r =>
      rw [Lane.requestArrives_waits (n := r) rfl (by simp [Framer.insideField, h])]
      refine ⟨fun _ _ => Lane.settleFraming_running (by simp [Lane.takeCells, h]),
        fun _ hle => absurd hle (by simp), fun hmark => ?_, fun hstopped => ?_⟩
      · cases h.symm.trans hmark
      · cases h.symm.trans hstopped
  | cons c cs ih =>
    rw [List.length_cons] at hk
    cases r with
    | zero => exact Lane.request_now (c :: cs) h (by rw [List.length_cons]; omega) hstate
    | succ r =>
      have hquiet : l.framer.Quiet env.profile (cs.length + 1) := .inr (.inl h)
      have hfirst := Lane.requestNears_quiet (r := r) hquiet (by omega) d c
      obtain ⟨-, -, hnext, -, hruns⟩ := hquiet.step (by omega) c l.counts
      rw [Lane.requestArrives_waits (n := r) rfl (by simp [Framer.insideField, h])]
      have hstep : Lane.takeCells env d (c :: cs) { l with request := some (r + 1) } =
          Lane.takeCells env d cs (({ l with
            framer := (l.framer.takeCell env.profile c l.counts).framer, request := some r } : Lane).requestArrives) :=
        congrArg (fun m : Lane => Lane.takeCells env d cs m.requestArrives) hfirst
      have hplace : ((c :: cs).take (min (r + 1) (c :: cs).length)) = c :: cs.take (min r cs.length) := by
        rw [List.length_cons, Nat.succ_min_succ, List.take_succ_cons]
      rw [hstep]
      obtain hstopped | hhunt | ⟨hmark, hroom⟩ := hnext
      · exact absurd hstopped (hruns h)
      · -- the search goes on
        obtain ⟨hwaits, hhalts, hfinishes, hstands⟩ :=
          ih (l := { l with framer := (l.framer.takeCell env.profile c l.counts).framer }) hhunt (by omega) hstate r
        refine ⟨fun hm hlt => ?_, fun hm hle => ?_, fun hm => ?_, fun hm => ?_⟩
        all_goals rw [hplace] at hm
        · refine (hwaits hm (by rw [List.length_cons] at hlt; omega)).trans ?_
          simp only [List.length_cons, Nat.add_sub_add_right]
          rfl
        · exact hhalts hm (by rw [List.length_cons] at hle; omega)
        · exact hfinishes hm
        · refine (hstands hm).trans ?_
          simp only [List.length_cons, Nat.add_sub_add_right, Nat.add_le_add_iff_right]
          rfl
      · -- a mark is found
        have hleft := Lane.request_marked (d := d) cs
          (l := { l with framer := (l.framer.takeCell env.profile c l.counts).framer }) hmark hroom r
        obtain ⟨hstays, -⟩ := Framer.run_mark (n := l.counts) (cs.take (min r cs.length)) hmark
          (Nat.lt_of_le_of_lt (Nat.add_le_add_left (List.length_take_le' _ _) _) hroom)
        refine ⟨fun hm => ?_, fun hm => ?_, fun _ => hleft, fun hm => ?_⟩
        all_goals
          rw [hplace] at hm
          cases hstays.symm.trans hm

end arrival

end Sys2Proof.Machine
end

section
/-! SUPPORT. The interval that a transition closes (R29, R38, R39, R46, R66): the cells taken without a request, and those from
the cell that ends capture on. -/

namespace Sys2Proof.Machine

section cells

variable {env : LaneEnv} {d : Descriptor}

/-! ## Cells without a request -/

/-- Out of CAPTURING a cell leaves the lane's state. -/
theorem Lane.afterCells_state (cells : List RecordedCell) {l : Lane} (h : l.state ≠ .capturing) :
    (l.afterCells env d cells).state = l.state := by
  induction cells generalizing l with
  | nil => rfl
  | cons c cs ih =>
    obtain ⟨hstate, -⟩ | ⟨hstate, -⟩ := Lane.takeCell_request env d c l
    · exact (ih (l := l.takeCell env d c) (by rwa [hstate])).trans hstate
    · exact absurd hstate h

/-- R66: where no seek mismatch ends capture, no request is on its way and the cells are simply taken. -/
theorem Lane.takeCells_unrequested (cells : List RecordedCell) {l : Lane} (hrequest : l.request = none)
    (h : l.state ≠ .capturing ∨ (l.afterCells env d cells).state = .capturing) :
    Lane.takeCells env d cells l = l.afterCells env d cells ∧ (l.afterCells env d cells).request = none
      ∧ (l.afterCells env d cells).freeCount = l.freeCount := by
  induction cells generalizing l with
  | nil => exact ⟨rfl, hrequest, rfl⟩
  | cons c cs ih =>
    have hstep (hnone : (l.takeCell env d c).request = none) :
        (l.requestNears.takeCell env d c).requestArrives = l.takeCell env d c := by
      rw [(Lane.request_none hrequest).1, (Lane.request_none hnone).2]
    obtain ⟨hstate, hsame, hcount⟩ | ⟨hstate, hends, -⟩ := Lane.takeCell_request env d c l
    · have hnone := hsame.trans hrequest
      obtain ⟨htaken, hafter, hfree⟩ := ih (l := l.takeCell env d c) hnone (by rw [hstate]; exact h)
      exact ⟨(congrArg (Lane.takeCells env d cs) (hstep hnone)).trans htaken, hafter, hfree.trans hcount⟩
    · have hover : (l.afterCells env d (c :: cs)).state = .finishing :=
        (Lane.afterCells_state cs (l := l.takeCell env d c) (by rw [hends]; decide)).trans hends
      obtain hno | hyes := h
      · exact absurd hstate hno
      · cases hover.symm.trans hyes

theorem Lane.afterCells_append (xs ys : List RecordedCell) (l : Lane) :
    l.afterCells env d (xs ++ ys) = (l.afterCells env d xs).afterCells env d ys := List.foldl_append

theorem Lane.takeCells_append (xs ys : List RecordedCell) (l : Lane) :
    Lane.takeCells env d (xs ++ ys) l = Lane.takeCells env d ys (Lane.takeCells env d xs l) := List.foldl_append

/-! ## The cell that ends capture -/

/-- R66, R75, log entry 6: the cells after the one whose pair ends capture find the request on its way. -/
theorem Lane.takeCells_ends {cells : List RecordedCell} {l : Lane} {m : Nat} (hrequest : l.request = none)
    (hm : m < cells.length) (hcapturing : (l.afterCells env d (cells.take m)).state = .capturing)
    (hfinishing : (l.afterCells env d (cells.take (m + 1))).state = .finishing) :
    let x := l.afterCells env d (cells.take (m + 1))
    let delay := Config.finishDelay env.number.val l.freeCount
    x.request = some delay ∧ x.freeCount = l.freeCount + 1 ∧ (x.framer.mode = .hunt ∨ x.framer.mode = .stopped)
      ∧ Lane.takeCells env d cells l = Lane.takeCells env d (cells.drop (m + 1)) x.requestArrives := by
  intro x delay
  obtain ⟨htaken, hnone, hfree⟩ := Lane.takeCells_unrequested (cells.take m) hrequest (.inr hcapturing)
  have hx : x = (l.afterCells env d (cells.take m)).takeCell env d cells[m] := by
    change l.afterCells env d (cells.take (m + 1)) = _
    rw [List.take_succ_eq_append_getElem hm, Lane.afterCells_append]
    rfl
  have hsplit : cells = cells.take m ++ cells[m] :: cells.drop (m + 1) := by
    rw [List.cons_getElem_drop_succ, List.take_append_drop]
  obtain ⟨hstate, -⟩ | ⟨-, -, hsent, hcount, hmode⟩ :=
    Lane.takeCell_request env d cells[m] (l.afterCells env d (cells.take m))
  · rw [← hx, hcapturing] at hstate
    cases hfinishing.symm.trans hstate
  · rw [← hx, hfree] at hsent hcount
    rw [← hx] at hmode
    refine ⟨hsent, hcount, hmode, ?_⟩
    conv_lhs => rw [hsplit, Lane.takeCells_append, htaken]
    change Lane.takeCells env d (cells.drop (m + 1))
      (((l.afterCells env d (cells.take m)).requestNears.takeCell env d cells[m]).requestArrives) = _
    rw [(Lane.request_none hnone).1, hx]

/-! ## The next interval -/

/-- R38, R39: while the cells are taken the next interval is open, or the framer has become STOPPED. -/
theorem Lane.takeCells_interval (cells : List RecordedCell) {l : Lane} (h : l.interval = some 0) :
    (Lane.takeCells env d cells l).interval = some 0 ∨ (Lane.takeCells env d cells l).framer.mode = .stopped := by
  refine Lane.takeCells_keeps (P := fun l => l.interval = some 0 ∨ l.framer.mode = .stopped) (fun c l hl => ?_)
    (fun l hl => ?_) (fun l hl => ?_) (fun l r hl => hl) cells (.inl h)
  · obtain hopen | hstopped := hl
    · refine .inl ?_
      cases hpair : (l.framer.takeCell env.profile c l.counts).pair with
      | none =>
        rw [Lane.takeCell_none hpair]
        exact hopen
      | some x =>
        obtain ⟨hframe, -⟩ := Lane.anchor_frame env d x
          { l with
            framer := (l.framer.takeCell env.profile c l.counts).framer
            counts := (l.framer.takeCell env.profile c l.counts).counts }
        rw [Lane.takeCell_some hpair, hframe]
        exact hopen
    · have hcell := Framer.takeCell_stopped hstopped env.profile c l.counts
      rw [Lane.takeCell_none (by rw [hcell]), hcell]
      exact .inr hstopped
  · refine hl.imp id fun hstopped => ?_
    rw [Framer.finish_stopped hstopped]
    exact hstopped
  · by_cases hmode : l.framer.mode = .stopped
    · rw [Lane.settleFraming_stopped hmode]
      exact .inr hmode
    · rw [Lane.settleFraming_running hmode]
      exact hl

/-- R38: once the interval's cells are taken the next one is open unless the framer is STOPPED. -/
theorem Lane.settleFraming_interval {l : Lane} (h : l.interval = some 0 ∨ l.framer.mode = .stopped) :
    l.settleFraming.interval = if l.settleFraming.framer.mode = .stopped then none else some 0 := by
  by_cases hmode : l.framer.mode = .stopped
  · rw [Lane.settleFraming_stopped hmode]
    exact (if_pos hmode).symm
  · rw [Lane.settleFraming_running hmode, if_neg hmode]
    exact h.resolve_right hmode

end cells

end Sys2Proof.Machine
end

section
/-! SUPPORT. The interval that a transition closes (R29, R38, R39, R46, R66): the request that its cells meet, and the obligation. -/

namespace Sys2Proof.Machine

section meets

variable {env : LaneEnv} {d : Descriptor}

/-! ## The request that an interval's cells meet -/

/-- What a finish request `r` cells on its way leaves of a lane, from the lane `taken` that has all `count` cells and the lane
`reached` that has those before the request's arrival (R19, R66, log entry 6). -/
structure Lane.Meets (taken reached : Lane) (count r : Nat) (m : Lane) : Prop where
  waits : reached.framer.mode = .hunt → count < r → m = { taken with request := some (r - count) }
  halts : reached.framer.mode = .hunt → r ≤ count →
    m = { reached with request := none, framer := reached.framer.halted, interval := none, state := .draining }
  finishes : reached.framer.mode = .mark →
    m = { taken with request := none, framer := { taken.framer with finishing := true } }
  stands : reached.framer.mode = .stopped →
    m = { taken with
          request := if r ≤ count then none else some (r - count), interval := none, state := .draining }

/-- A quiet framer that is not STOPPED hunts or has found a mark after the cells. -/
theorem Framer.run_searching {p : Profile} {n : Counts} (cells : List RecordedCell) {f : Framer}
    (h : f.Quiet p cells.length) (hk : cells.length < p.encoding.cellsPerByte) (hruns : f.mode ≠ .stopped) :
    (f.run p n cells).mode = .hunt ∨ (f.run p n cells).mode = .mark := by
  induction cells generalizing f with
  | nil => exact (h.resolve_left hruns).imp_right And.left
  | cons c cs ih =>
    obtain ⟨-, -, hquiet, hstays, hfrom⟩ := h.step hk c n
    refine ih hquiet (by rw [List.length_cons] at hk; omega) ?_
    by_cases hhunt : f.mode = .hunt
    · exact hfrom hhunt
    · rwa [hstays hhunt]

/-- R11: within the cells of an interval a hunting framer goes on hunting or finds a mark. -/
theorem Lane.afterCells_searching (d : Descriptor) (cells : List RecordedCell) {l : Lane} (h : l.framer.mode = .hunt)
    (hk : cells.length < env.profile.encoding.cellsPerByte) :
    (l.afterCells env d cells).framer.mode = .hunt ∨ (l.afterCells env d cells).framer.mode = .mark := by
  have hquiet : l.framer.Quiet env.profile cells.length := .inr (.inl h)
  rw [Lane.afterCells_quiet d cells hquiet hk]
  exact Framer.run_searching cells hquiet hk (by rw [h]; decide)

/-- R66, log entry 6: the request on its way to a framer that hunts or is STOPPED, as the lane meets it. -/
theorem Lane.request_meets (cells : List RecordedCell) {l : Lane}
    (h : l.framer.mode = .hunt ∨ l.framer.mode = .stopped) (hk : cells.length + 1 < env.profile.encoding.cellsPerByte)
    (hstate : l.state = .finishing) {r : Nat} (hrequest : l.request = some r) :
    Lane.Meets (l.afterCells env d cells) (l.afterCells env d (cells.take (min r cells.length))) cells.length r
      ((Lane.takeCells env d cells l.requestArrives).settleFraming) := by
  have hall : cells.length < env.profile.encoding.cellsPerByte := by omega
  have hsome : (cells.take (min r cells.length)).length < env.profile.encoding.cellsPerByte :=
    Nat.lt_of_le_of_lt (List.length_take_le' _ _) hall
  have hquiet (k : Nat) : l.framer.Quiet env.profile k := h.elim (fun hh => .inr (.inl hh)) .inl
  have hself : ({ l with request := some r } : Lane) = l := by rw [← hrequest]
  rw [Lane.afterCells_quiet d cells (hquiet _) hall, Lane.afterCells_quiet d (cells.take _) (hquiet _) hsome]
  obtain hhunt | hstopped := h
  · have harrives := Lane.request_hunting (d := d) cells hhunt hk hstate r
    rw [hself] at harrives
    obtain ⟨hwaits, hhalts, hfinishes, hstands⟩ := harrives
    refine ⟨hwaits, fun hm hle => ?_, hfinishes, hstands⟩
    rw [Nat.min_eq_left hle] at hm ⊢
    exact hhalts (by rwa [Nat.min_eq_left hle]) hle
  · have hleft := Lane.request_stopped (d := d) cells hstopped hall hstate r
    rw [hself] at hleft
    rw [Framer.run_stopped cells hstopped, Framer.run_stopped (cells.take _) hstopped]
    refine ⟨fun hm => ?_, fun hm => ?_, fun hm => ?_, fun _ => hleft⟩
    all_goals cases hstopped.symm.trans hm

/-- R66, R75, log entry 6: a pair among the cells that ends capture sends the request on its way, which the cells after it
then meet. -/
theorem Lane.capture_ends {cells : List RecordedCell} {l : Lane} {m : Nat} (hrequest : l.request = none)
    (hk : cells.length < env.profile.encoding.cellsPerByte) (hm : m < cells.length)
    (hcapturing : (l.afterCells env d (cells.take m)).state = .capturing)
    (hfinishing : (l.afterCells env d (cells.take (m + 1))).state = .finishing) :
    let arrives := m + 1 + Config.finishDelay env.number.val l.freeCount
    (l.afterCells env d cells).freeCount = l.freeCount + 1
      ∧ Lane.Meets (l.afterCells env d cells) (l.afterCells env d (cells.take (min arrives cells.length))) cells.length
        arrives ((Lane.takeCells env d cells l).settleFraming) := by
  intro arrives
  obtain ⟨hsent, hcount, hmode, htaken⟩ := Lane.takeCells_ends hrequest hm hcapturing hfinishing
  have hlength : (cells.drop (m + 1)).length = cells.length - (m + 1) := List.length_drop
  have hafter (k : Nat) : l.afterCells env d (cells.take (m + 1 + k)) =
      (l.afterCells env d (cells.take (m + 1))).afterCells env d ((cells.drop (m + 1)).take k) := by
    rw [List.take_add, Lane.afterCells_append]
  have hall : l.afterCells env d cells =
      (l.afterCells env d (cells.take (m + 1))).afterCells env d (cells.drop (m + 1)) := by
    rw [← Lane.afterCells_append, List.take_append_drop]
  have hplace : min arrives cells.length =
      m + 1 + min (Config.finishDelay env.number.val l.freeCount) (cells.drop (m + 1)).length := by
    change min (m + 1 + _) _ = _
    omega
  rw [hplace, hafter, hall, htaken]
  have hmeets := Lane.request_meets (env := env) (d := d) (cells.drop (m + 1)) hmode (by omega) hfinishing hsent
  have hquiet := Lane.afterCells_quiet (env := env) (l := l.afterCells env d (cells.take (m + 1))) d (cells.drop (m + 1))
    (hmode.elim (fun hh => .inr (.inl hh)) .inl) (by omega)
  have harrives : arrives = m + 1 + Config.finishDelay env.number.val l.freeCount := rfl
  have hleft : Config.finishDelay env.number.val l.freeCount - (cells.drop (m + 1)).length = arrives - cells.length := by
    omega
  have hwithin : Config.finishDelay env.number.val l.freeCount ≤ (cells.drop (m + 1)).length ↔ arrives ≤ cells.length := by
    omega
  refine ⟨?_, fun hm hlt => ?_, fun hm hle => hmeets.halts hm (hwithin.2 hle), hmeets.finishes, fun hm => ?_⟩
  · rw [hquiet]
    exact hcount
  · rw [hmeets.waits hm (by omega), hleft]
  · rw [hmeets.stands hm, hleft, if_congr hwithin rfl rfl]

end meets

/-! ## The obligation -/

/-- R41, R46: an interval has fewer cells than a byte, by two at least. -/
theorem Separator.compute_cells (x : Separator) (e : Encoding) (ceff i c : Nat) :
    (intervalCells (x.compute e ceff i).k c).length + 1 < e.cellsPerByte := by
  have hcount : ((x.compute e ceff i).k : ℤ) = _ := cellCount_eq e (rawCells i x.ccur x.bias)
  have hset := e.smallest_le_largest
  have hlargest : e.largest ≤ 4 := by cases e <;> decide
  have hbyte : 10 ≤ e.cellsPerByte := by cases e <;> decide
  unfold intervalCells
  rw [List.length_append, List.length_replicate, List.length_singleton]
  omega

/-- R38: a transition at a lane without an open interval, or without a pass. -/
theorem execFluxTransition_unmeasured {s : State} {i : Fin 4} {elapsed : Nat}
    (h : (s.lanes[i]).active = none
      ∨ ((s.lanes[i]).interval = none ∧ s.onTime i (s.laneProfile s.lanes[i]).revPeriod elapsed)) :
    exec (.fluxTransition i elapsed) s =
      .next (s.setLane i (s.laneAfter i (s.laneProfile s.lanes[i]).revPeriod elapsed)) := by
  have helapse := State.elapse_onTime (h.symm.imp_left And.right)
  change execFluxTransition i elapsed s = _
  unfold execFluxTransition
  congr 1
  dsimp only
  rw [helapse, State.setLane_get]
  obtain hidle | ⟨hclosed, -⟩ := h
  · have hafter : (s.laneAfter i (s.laneProfile s.lanes[i]).revPeriod elapsed).active = none := hidle
    rw [hafter]
    split
    next _ hd => cases hd
    next => rfl
  · have hafter : (s.laneAfter i (s.laneProfile s.lanes[i]).revPeriod elapsed).interval = none := by
      change (s.lanes[i]).interval.map _ = none
      rw [hclosed, Option.map_none]
    rw [hafter]

/-- Settles O32: the cells of the closed interval, taken one by one, meet the request that is on its way among them. -/
theorem fluxClosesTheOpenInterval : Obligations.FluxClosesTheOpenInterval := by
  intro s i elapsed event
  refine ⟨?_, execFluxTransition_unmeasured, fun d late t hactive ht hlate => ⟨fun hends => ?_, fun hexpires => ?_⟩⟩
  · intro d k hactive hinterval env l y htime hevent hkept judged cells afterCells taken
    have hexec := exec_closesInterval hactive hinterval htime hevent
    let start : Lane := { l with interval := some 0, framer := judged, separator := { l.separator with ccur := y.ccur } }
    have hclose : l.closeInterval env d (k + elapsed) = (Lane.takeCells env d cells start).settleFraming :=
      Lane.closeInterval_kept rfl hkept
    have hshort : cells.length + 1 < env.profile.encoding.cellsPerByte := Separator.compute_cells _ _ _ _ _
    have hall : taken = start.afterCells env d cells := congrArg (start.afterCells env d) List.take_length
    obtain ⟨hframe, hqueue, -⟩ :=
      (Lane.takeCells_frame env d cells start).trans (Lane.settleFraming_same (Lane.takeCells env d cells start))
    refine ⟨_, hexec.trans (congrArg (fun m => (.next (s.setLane i m) : Result)) hclose), ?_,
      Lane.settleFraming_interval (Lane.takeCells_interval cells rfl), ?_, ?_, ?_, ?_, ?_, ?_, hqueue, ?_, ?_, ?_⟩
    · rw [hframe]
    · rw [hframe]
    · rw [hframe]
    · rw [hframe]
    · rw [hframe]
    · rw [hframe]
    · rw [hframe]
    · -- no request on its way
      intro hrequest hstate
      rw [hall] at hstate ⊢
      rw [(Lane.takeCells_unrequested cells (l := start) hrequest hstate).1]
      rfl
    · -- a seek mismatch among the cells
      intro m hrequest hm hcapturing hfinishing arrives reached
      obtain ⟨hcount, hwaits, hhalts, hfinishes, hstands⟩ :=
        Lane.capture_ends (l := start) hrequest (by omega) hm hcapturing hfinishing
      rw [hall]
      exact ⟨hcount, hwaits, hhalts, hfinishes, hstands⟩
    · -- a request on its way
      intro n hrequest hstate hmode reached
      have hhunt : start.framer.mode = .hunt := hmode
      have hwait : start.requestArrives = start :=
        Lane.requestArrives_waits (n := n) hrequest (by simp [Framer.insideField, hhunt])
      have hmeets := Lane.request_meets (d := d) cells (.inl hhunt) hshort hstate (r := n + 1) hrequest
      rw [hwait, ← hall] at hmeets
      obtain ⟨hwaits, hhalts, hfinishes, -⟩ := hmeets
      refine ⟨fun hm hlt => hwaits hm (by omega), fun hm hlt => hhalts hm (by omega), fun hm => hfinishes ?_⟩
      have hfew : (cells.take (min (n + 1) cells.length)).length < env.profile.encoding.cellsPerByte :=
        Nat.lt_of_le_of_lt (List.length_take_le' _ _) (by omega)
      exact (Lane.afterCells_searching d _ hhunt hfew).resolve_left hm
  · obtain ⟨s1, hnext, -, -, hlater⟩ := exec_afterInterval hlate hactive ht hends
    exact ⟨s1, hnext, hlater⟩
  · obtain ⟨s1, hnext, -, -, hlater⟩ := exec_afterExpiry hlate hactive ht hexpires
    exact ⟨s1, hnext, hlater⟩

end Sys2Proof.Machine
end

section
/-! SUPPORT. Grants (R83, R85, R87 to R92): that one is due whenever an attempt waits for an idle engine, what the grant leaves
alone, and what it makes of the engine. -/

namespace Sys2Proof.Machine

variable {s : State}

theorem Engine.busy_iff {e : Engine} : e.busy = true ↔ e.phase ≠ .idle := by
  unfold Engine.busy
  cases e.phase <;> decide

/-- R83, R87: with the engine busy, or with nothing queued, there is no grant. -/
theorem State.grantOne_idle (h : s.engine.phase ≠ .idle ∨ ∀ i : Fin 4, (s.lanes[i]).queue = []) : s.grantOne = s := by
  obtain heq | ⟨l, arb, a, rest, hfree, -, hqueue, -⟩ := s.grantOne_cases
  · exact heq
  · obtain hbusy | hempty := h
    · rw [Engine.busy_iff.2 hbusy] at hfree
      cases hfree
    · cases (hempty l).symm.trans hqueue

/-- R89, R90: of the lanes with a non-empty queue one comes first, by number and in a complete order. -/
theorem State.grants_of_waiting (hidle : s.engine.phase = .idle) (howner : s.arbiter.owner = none) (horder : s.OrderComplete)
    (hwaiting : ∃ i : Fin 4, (s.lanes[i]).queue ≠ []) : ∃ l a rest, s.Grants l a rest := by
  obtain ⟨i, hi⟩ := hwaiting
  suffices hfirst : ∃ l : Fin 4, (s.lanes[l]).queue ≠ []
      ∧ (s.settings.rotating = false → ∀ j : Fin 4, j < l → (s.lanes[j]).queue = [])
      ∧ (s.settings.rotating = true →
          ∃ ahead behind, s.arbiter.order = ahead ++ l :: behind ∧ ∀ j ∈ ahead, (s.lanes[j]).queue = []) by
    obtain ⟨l, hqueue, hfixed, hrotating⟩ := hfirst
    obtain ⟨a, rest, hsplit⟩ := List.exists_cons_of_ne_nil hqueue
    exact ⟨l, a, rest, hidle, hsplit, .inr ⟨howner, hfixed, hrotating⟩⟩
  cases hmode : s.settings.rotating with
  | false =>
    obtain ⟨l, hl, hleast⟩ := WellFounded.has_min (wellFounded_lt (α := Fin 4)) {j | (s.lanes[j]).queue ≠ []} ⟨i, hi⟩
    exact ⟨l, hl, fun _ j hj => not_not.1 fun hne => hleast j hne hj, nofun⟩
  | true =>
    have hmem : i ∈ s.arbiter.order := horder.mem_iff.2 (by fin_cases i <;> decide)
    have hsome : (s.arbiter.order.find? fun j => !(s.lanes[j]).queue.isEmpty).isSome = true :=
      List.find?_isSome.2 ⟨i, hmem, by simpa using hi⟩
    obtain ⟨l, hfind⟩ := Option.isSome_iff_exists.1 hsome
    obtain ⟨hqueue, ahead, behind, hsplit, hempty⟩ := List.find?_eq_some_iff_append.1 hfind
    exact ⟨l, by simpa using hqueue, nofun, fun _ => ⟨ahead, behind, hsplit, fun j hj => by simpa using hempty j hj⟩⟩

/-- R85, R91: a grant that is due. -/
theorem exec_grant_due {l : Fin 4} {a : Attempt} {rest : List Attempt} (h : s.Grants l a rest) :
    exec .grant s = .next ((s.granted l rest).receive a) := by
  rw [exec_grant, State.grantOne_of_grants h]

/-- R118, R119: the engine with attempt `a` in hand for entry `i`, at the start of its merge under the settings as they stand. -/
def State.engineMerging (s : State) (a : Attempt) (i : Nat) : Engine :=
  { s.engine with
    phase := .merge, hand := some ⟨a, i⟩, bonus := s.settings.crcBonus, margin := s.settings.contestMargin
    depth := s.settings.repairDepth, quorum := s.settings.voteQuorum, written := 0 }

/-- R118, R119: a granted attempt is discarded, the engine staying as it was, or the engine latches the settings and begins its
merge. -/
theorem State.receive_begins (s : State) (a : Attempt) :
    (s.receive a).engine = s.engine ∨ ∃ i, (s.receive a).engine = s.engineMerging a i := by
  obtain ⟨-, heq⟩ | ⟨-, ⟨i, e, -, hknown⟩ | ⟨-, heq⟩⟩ := State.receive_cases s a
  · rw [heq]
    exact .inl rfl
  · obtain ⟨heq, -⟩ | ⟨heq, -⟩ | ⟨heq, -⟩ := hknown <;> rw [heq]
    · exact .inl rfl
    · exact .inl rfl
    · exact .inr ⟨i, rfl⟩
  · rw [heq]
    obtain heq | ⟨j, r, i, -, -, heq⟩ := State.accommodate_cases s a <;> rw [heq]
    · exact .inl rfl
    · refine .inr ⟨i, ?_⟩
      rw [State.allocate_frame]
      rfl

/-- Settles O41: the arbiter's order finds the lane, and the classification of the attempt it hands over leaves the rest. -/
theorem grantsFollowTheArbitersOrder : Obligations.GrantsFollowTheArbitersOrder := by
  intro s
  refine ⟨fun h => (exec_grant s).trans (congrArg _ (State.grantOne_idle h)), State.grants_of_waiting, fun l a rest h => ?_⟩
  refine ⟨_, exec_grant_due h, ?_⟩
  have hframe := State.receive_frame (s.granted l rest) a
  exact ⟨(congrArg State.lanes hframe).trans rfl, (congrArg State.arbiter hframe).trans rfl, (congrArg State.settings hframe).trans rfl,
    (congrArg State.profiles hframe).trans rfl, (congrArg State.presets hframe).trans rfl, (congrArg State.resetLow hframe).trans rfl,
    State.receive_begins (s.granted l rest) a⟩

end Sys2Proof.Machine
end

section
/-! SUPPORT. Allocation (R99, R107 to R110): the lowest free number of a table, and what a granted attempt for a sector without
an entry makes of the tables. -/

namespace Sys2Proof.Machine

/-! ## Free numbers -/

section table

variable {α : Type}

/-- The lowest number of a table under which nothing is listed. -/
theorem Table.lowestFree_eq_some {t : Table α} {n i : Nat} (hi : i < n) (hfree : Table.get t i = none)
    (hlower : ∀ k < i, Table.get t k ≠ none) : Table.lowestFree t n 0 = some i := by
  cases h : Table.lowestFree t n 0 with
  | none =>
    have hlisted := Table.lowestFree_none h i (Nat.zero_le i) (by omega)
    rw [hfree] at hlisted
    cases hlisted
  | some k =>
    obtain ⟨-, -, hk, hfirst⟩ := Table.lowestFree_some h
    obtain hlt | rfl | hgt := Nat.lt_trichotomy k i
    · exact absurd hk (hlower k hlt)
    · rfl
    · have hlisted := hfirst i (Nat.zero_le i) hgt
      rw [hfree] at hlisted
      cases hlisted

/-- A table that lists every number below the bound has none free. -/
theorem Table.lowestFree_eq_none {t : Table α} {n : Nat} (h : ∀ i < n, Table.get t i ≠ none) :
    Table.lowestFree t n 0 = none := by
  refine Option.eq_none_iff_forall_ne_some.2 fun k hk => ?_
  obtain ⟨-, hlt, hfree, -⟩ := Table.lowestFree_some hk
  exact h k (by omega) hfree

theorem Table.put_put_same (t : Table α) (k : Nat) (v w : α) : Table.put (Table.put t k v) k w = Table.put t k w := by
  induction t with
  | nil => simp [Table.put]
  | cons x t ih =>
    obtain ⟨j, u⟩ := x
    obtain hlt | rfl | hgt := Nat.lt_trichotomy k j
    · simp [Table.put, hlt]
    · simp [Table.put]
    · simp [Table.put, hgt.not_gt, hgt.ne', ih]

end table

/-! ## A sector without an entry -/

section accommodate

variable {s : State} {a : Attempt}

/-- R107: an attempt for a sector without an entry that is not released. -/
theorem State.receive_new (hr : s.isReleased a.key = false) (hnew : ∀ e ∈ s.entries, e.2.key ≠ a.key) :
    s.receive a = s.accommodate a := by
  unfold State.receive
  rw [hr, State.findEntry_none.2 hnew, if_neg Bool.false_ne_true]

/-- R109: an attempt for which one of the tables has no free record. -/
theorem State.accommodate_full
    (h : s.trackFor a.key.track = none ∨ Table.lowestFree s.entries 4096 0 = none) :
    s.accommodate a = s.discardTableFull a.key.track.volume := by
  obtain heq | ⟨j, r, i, htrack, hfree, -⟩ := s.accommodate_cases a
  · exact heq
  · obtain hnone | hnone := h
    · cases hnone.symm.trans htrack
    · cases hnone.symm.trans hfree

/-- R107: an attempt that finds a track record and a free entry. -/
theorem State.accommodate_room {j i : Nat} {r : Track} (htrack : s.trackFor a.key.track = some (j, r))
    (hfree : Table.lowestFree s.entries 4096 0 = some i) :
    s.accommodate a = (s.allocate j r i a).startMerge i (Entry.fresh a s.settings.confirmTarget) a := by
  unfold State.accommodate
  rw [htrack, hfree]

/-- R103, R118, R119: an entry that is busy already leaves the engine to change. -/
theorem State.startMerge_same {i : Nat} {e : Entry} (h : Table.put s.entries i { e with busy := true } = s.entries) :
    s.startMerge i e a = { s with engine := s.engineMerging a i } := by
  unfold State.startMerge State.setEntry
  rw [h]
  rfl

/-- R107, R108, R110, R118: the allocation and the start of the merge as one change of the state. -/
theorem State.startMerge_allocated (j : Nat) (r : Track) (i : Nat) :
    (s.allocate j r i a).startMerge i (Entry.fresh a s.settings.confirmTarget) a =
      let lowered := s.freeEntries - 1 < s.settings.lowThreshold ∧ s.lowWarning = false
      let u : State :=
        { s.allocated j r i a with
          lowWarning := if lowered then true else s.lowWarning, engine := s.engineMerging a i }
      if lowered then u.raise .tableLow else u := by
  have hentries : Table.put (s.allocated j r i a).entries i { Entry.fresh a s.settings.confirmTarget with busy := true } =
      (s.allocated j r i a).entries := Table.put_put_same _ _ _ _
  rw [State.allocate_eq]
  unfold State.testLow
  by_cases h : s.freeEntries - 1 < s.settings.lowThreshold ∧ s.lowWarning = false
  · have hlow : (s.allocated j r i a).freeEntries < (s.allocated j r i a).settings.lowThreshold
        ∧ (s.allocated j r i a).lowWarning = false := h
    rw [if_pos hlow]
    simp only [if_pos h]
    exact State.startMerge_same hentries
  · have hlow : ¬ ((s.allocated j r i a).freeEntries < (s.allocated j r i a).settings.lowThreshold
        ∧ (s.allocated j r i a).lowWarning = false) := h
    rw [if_neg hlow]
    simp only [if_neg h]
    exact State.startMerge_same hentries

/-- Settles O43: the tables' lowest free records take the sector, or one of them has none. -/
theorem grantsAllocateForNewSectors : Obligations.GrantsAllocateForNewSectors := by
  intro s l a rest hgrants hkeys hnew t v x free lowered allocated full
  have hexec (hr : s.isReleased a.key = false) : exec .grant s = .next (t.accommodate a) := by
    rw [exec_grant_due hgrants]
    exact congrArg _ (State.receive_new (s := t) hr hnew)
  have hreleased (h : ∀ r ∈ s.tracks, r.2.key = a.key.track →
      r.2.releasedSet.getLsbD (a.key.sector - x.firstSector) = false) : s.isReleased a.key = false := by
    rw [Bool.eq_false_iff]
    intro hr
    obtain ⟨r, hmem, hkey, hbit⟩ := (State.isReleased_iff hkeys a.key).1 hr
    cases (h r hmem hkey).symm.trans hbit
  have hroom {j i : Nat} {r : Track} (htrack : s.trackFor a.key.track = some (j, r))
      (hfree : Table.lowestFree s.entries 4096 0 = some i) : t.accommodate a = allocated j r i :=
    (State.accommodate_room (s := t) htrack hfree).trans (State.startMerge_allocated j r i)
  have hfull (h : s.trackFor a.key.track = none ∨ Table.lowestFree s.entries 4096 0 = none) : t.accommodate a = full :=
    State.accommodate_full (s := t) h
  have hfresh (h : ∀ r ∈ s.tracks, r.2.key ≠ a.key.track) :
      s.trackFor a.key.track = (Table.lowestFree s.tracks 512 0).map fun j => (j, Track.fresh a.key.track) := by
    unfold State.trackFor
    rw [State.findTrack_none.2 h]
    cases Table.lowestFree s.tracks 512 0 <;> rfl
  refine ⟨fun i hi hget hlower => ⟨fun j r hr hkey hbit => ?_, fun htracks j hj hfree hfirst => ?_⟩, fun hlisted hbits => ?_,
    fun htracks hlisted => ?_⟩
  · have hfind : s.findTrack a.key.track = some (j, r) :=
      hkey ▸ State.findTrack_of_mem hkeys (Table.mem_of_get hr)
    have hnot : s.isReleased a.key = false := by
      unfold State.isReleased
      rw [hfind]
      exact hbit
    have htrack : s.trackFor a.key.track = some (j, r) := by
      unfold State.trackFor
      rw [hfind]
    rw [hexec hnot, hroom htrack (Table.lowestFree_eq_some hi hget hlower)]
  · have htrack : s.trackFor a.key.track = some (j, Track.fresh a.key.track) := by
      rw [hfresh htracks, Table.lowestFree_eq_some hj hfree hfirst]
      rfl
    rw [hexec (hreleased fun r hr hkey => absurd hkey (htracks r hr)),
      hroom htrack (Table.lowestFree_eq_some hi hget hlower)]
    rfl
  · rw [hexec (hreleased hbits), hfull (.inr (Table.lowestFree_eq_none hlisted))]
  · rw [hexec (hreleased fun r hr hkey => absurd hkey (htracks r hr)), hfull (.inl ?_)]
    rw [hfresh htracks, Table.lowestFree_eq_none hlisted]
    rfl

end accommodate

end Sys2Proof.Machine
end

section
/-! SUPPORT. The merge end (R118, R120, R123, R130 to R136): the entry, its slot and the engine as one change of the state. -/

namespace Sys2Proof.Machine

section mergeEnd

variable {s : State} {h : Hand} {e : Entry} {x : Slot}

/-- R120, R123: the slot's lists once the merge has written every position still open. -/
def State.mergedLists (s : State) (h : Hand) (x : Slot) : List (List Candidate) :=
  mergeRange (byteWeight s.engine.bonus h.attempt.crcGood) s.engine.written (h.attempt.dataLength + 2) 0 x.lists
    h.attempt.bytes h.attempt.confidences

theorem State.mergedLists_length : (s.mergedLists h x).length = x.lists.length := mergeRange_length _ _ _ _ _ _ _

theorem byteWeight_eq (bonus : Nat) (crcGood : Bool) (confidence : Nat) :
    byteWeight bonus crcGood confidence = confidence + if crcGood then bonus else 0 := by
  cases crcGood <;> rfl

/-- R120, R123: a position written before stands, and any other is updated by its own byte and weight. -/
theorem State.mergedLists_get (ha : h.attempt.Whole) (hx : x.lists.length = h.attempt.dataLength + 2) {k : Nat}
    (hk : k < h.attempt.dataLength + 2) :
    (s.mergedLists h x)[k]? =
      if k < s.engine.written then x.lists[k]?
      else
        some (updateList (h.attempt.bytes.getD k 0)
          (h.attempt.confidences.getD k 0 + if h.attempt.crcGood then s.engine.bonus else 0) (x.lists.getD k [])) := by
  obtain ⟨hbytes, hconfidences⟩ := ha
  have hlisted : x.lists[k]? = some (x.lists.getD k []) := by
    rw [List.getD_eq_getElem?_getD, List.getElem?_eq_getElem (hx ▸ hk), Option.getD_some]
  unfold State.mergedLists
  rw [mergeRange_get _ _ _ _ _ _ _ k (hbytes ▸ hk) (hconfidences ▸ hk), Nat.zero_add]
  by_cases hopen : k < s.engine.written
  · rw [if_neg (by omega), if_pos hopen]
  · rw [if_pos ⟨Nat.not_lt.1 hopen, hk⟩, if_neg hopen, hlisted, Option.map_some, byteWeight_eq]

/-- The lists play no part in the witness. -/
theorem Slot.afterMerge_lists (x : Slot) (lists : List (List Candidate)) (e : Entry) (a : Attempt) :
    ({ x with lists := lists } : Slot).afterMerge e a = ⟨lists, (x.afterMerge e a).witness, x.image⟩ := by
  unfold Slot.afterMerge
  split <;> rfl

/-- R118, R120: the state after the merge end, from the entry and the witness it leaves. -/
def State.mergeEnded (s : State) (h : Hand) (x : Slot) (e' : Entry) (witness : Option (List Byte)) : State :=
  { s with
    entries := Table.put s.entries h.entry e'
    slots := Table.put s.slots h.entry { lists := s.mergedLists h x, witness := witness, image := x.image }
    engine :=
      { s.engine with phase := .evaluation, written := max s.engine.written (h.attempt.dataLength + 2) } }

/-- R118, R120: the end of a merge. -/
theorem exec_mergeEnd (hphase : s.engine.phase = .merge) (hhand : s.engine.hand = some h)
    (he : Table.get s.entries h.entry = some e) (hx : Table.get s.slots h.entry = some x) :
    exec .mergeEnd s =
      .next (s.mergeEnded h x (e.afterMerge x.witness h.attempt) (x.afterMerge e h.attempt).witness) := by
  have hadvance : s.advanceMerge h (h.attempt.dataLength + 2) =
      { s.setSlot h.entry { x with lists := s.mergedLists h x } with
        engine := { s.engine with written := max s.engine.written (h.attempt.dataLength + 2) } } := by
    unfold State.advanceMerge State.mergedLists
    rw [hx]
    dsimp only
    rw [Nat.min_self]
  change execMergeEnd s = _
  unfold execMergeEnd
  rw [hphase, hhand]
  dsimp only
  rw [hadvance]
  obtain ⟨-, hnone | hnone⟩ | ⟨e', x', he', hx', heq⟩ := State.endMerge_cases
    { s.setSlot h.entry { x with lists := s.mergedLists h x } with
      engine := { s.engine with written := max s.engine.written (h.attempt.dataLength + 2) } } h
  · cases he.symm.trans hnone
  · cases (Table.get_put_same _ _ _).symm.trans hnone
  · cases he.symm.trans he'
    cases (Table.get_put_same _ _ _).symm.trans hx'
    rw [heq, Slot.afterMerge_lists]
    unfold State.setEntry State.setSlot State.mergeEnded
    dsimp only
    rw [Table.put_put_same]

end mergeEnd

/-- Settles O45: the lists by position, and the witness by the cases of R133 to R136. -/
theorem mergeEndUpdatesListsAndWitness : Obligations.MergeEndUpdatesListsAndWitness := by
  intro s
  refine ⟨fun hphase => ?_, ?_⟩
  · change execMergeEnd s = _
    unfold execMergeEnd
    split
    next hmerge _ => exact absurd hmerge hphase
    next => rfl
  · intro h e x hphase hhand hwhole he hx a up counted
    obtain ⟨-, hslots, hhands⟩ := hwhole
    obtain ⟨ha, hlength⟩ := hhands h hhand
    obtain ⟨x', hx', hlists, -⟩ := hslots h.entry e he
    cases hx.symm.trans hx'
    rw [hlength e he] at hlists
    have hexec := exec_mergeEnd hphase hhand he hx
    have hends {e' : Entry} {y : Slot} (hm : e.afterMerge x.witness a = e' ∧ x.afterMerge e a = y) :
        exec .mergeEnd s = .next (s.mergeEnded h x e' y.witness) := by
      obtain ⟨rfl, rfl⟩ := hm
      exact hexec
    refine ⟨s.mergedLists h x, State.mergedLists_length,
      fun k hk => State.mergedLists_get ha hlists (hlength e he ▸ hk), fun hbad => hends (Entry.afterMerge_bad e hbad),
      fun hgood => ⟨fun hw => hends (Entry.afterMerge_first e hgood hw), fun w hw => ⟨fun heq => ?_, fun hne hweak => ?_,
        fun hne hstrong => ?_⟩⟩⟩
    · exact hends (Entry.afterMerge_confirms e hgood hw heq)
    · exact hends (Entry.afterMerge_replaces e hgood hw hne hweak)
    · exact hends (Entry.afterMerge_conflicts e hgood hw hne hstrong)

end Sys2Proof.Machine
end

section
/-! SUPPORT. The vote's image, the blank count and the contested set (R138, R140) by position. -/

namespace Sys2Proof.Machine

/-! ## The voted image and the blank count -/

/-- R138: the voted byte of a position. -/
theorem votedImage_get {lists : List (List Candidate)} {k : Nat} (hk : k < lists.length) :
    (lists.getD k [] = [] → (votedImage lists)[k]? = some 0)
      ∧ ∀ c rest, lists.getD k [] = c :: rest → (votedImage lists)[k]? = some c.value := by
  unfold votedImage
  rw [List.getElem?_map, List.getD_eq_getElem?_getD, List.getElem?_eq_getElem hk, Option.getD_some, Option.map_some]
  refine ⟨fun h => ?_, fun c rest h => ?_⟩
  · rw [h]
  · rw [h]

/-- R138: the blank positions, one by one. -/
theorem blankCount_eq (lists : List (List Candidate)) :
    blankCount lists = ((List.range lists.length).filter fun k => (lists.getD k []).isEmpty).length := by
  have hlists : (List.range lists.length).map (fun k => lists.getD k []) = lists := by
    refine List.ext_getElem (by simp) fun k hk _ => ?_
    rw [List.getElem_map, List.getElem_range, List.getD_eq_getElem]
  calc blankCount lists
      = (((List.range lists.length).map fun k => lists.getD k []).filter List.isEmpty).length := by
        rw [hlists]
        rfl
    _ = _ := by
        rw [List.filter_map, List.length_map]
        rfl

/-! ## The contested set -/

/-- The difference between the two best candidates of a list (R140). -/
def bestGap : List Candidate → Nat
  | a :: b :: _ => a.weight - b.weight
  | _ => 0

/-- R140: a position with a second candidate within the margin joins the set. -/
theorem contestedFrom_eq (margin pos : Nat) (l : List Candidate) (ls : List (List Candidate)) :
    contestedFrom margin pos (l :: ls) =
      if 2 ≤ l.length ∧ bestGap l ≤ margin then insertContested (bestGap l) pos (contestedFrom margin (pos + 1) ls)
      else contestedFrom margin (pos + 1) ls := by
  obtain _ | ⟨a, _ | ⟨b, t⟩⟩ := l
  · rfl
  · exact (if_neg (by simp)).symm
  · rw [contestedFrom]
    exact if_congr (by simp [bestGap]) rfl rfl

/-- R140: the contested positions, each with its difference. -/
theorem mem_contestedFrom_iff {margin pos : Nat} {lists : List (List Candidate)} {y : Nat × Nat} :
    y ∈ contestedFrom margin pos lists ↔
      ∃ i < lists.length, y = (bestGap (lists.getD i []), pos + i) ∧ 2 ≤ (lists.getD i []).length
        ∧ bestGap (lists.getD i []) ≤ margin := by
  induction lists generalizing pos with
  | nil => simp [contestedFrom]
  | cons l ls ih =>
    have hfirst : y ∈ contestedFrom margin pos (l :: ls) ↔
        (y = (bestGap l, pos) ∧ 2 ≤ l.length ∧ bestGap l ≤ margin) ∨ y ∈ contestedFrom margin (pos + 1) ls := by
      rw [contestedFrom_eq]
      split
      next h => rw [(insertContested_perm _ _ _).mem_iff, List.mem_cons, and_iff_left h]
      next h => exact ⟨.inr, fun hy => hy.resolve_left fun hl => h hl.2⟩
    rw [hfirst, ih]
    constructor
    · rintro (⟨hy, hl⟩ | ⟨i, hi, hy, hl⟩)
      · exact ⟨0, Nat.succ_pos _, hy, hl⟩
      · exact ⟨i + 1, Nat.succ_lt_succ hi, by rw [hy, Nat.add_assoc, Nat.add_comm 1 i]; rfl, hl⟩
    · rintro ⟨_ | i, hi, hy, hl⟩
      · exact .inl ⟨hy, hl⟩
      · exact .inr ⟨i, Nat.lt_of_succ_lt_succ hi, by rw [hy, Nat.add_assoc, Nat.add_comm 1 i]; rfl, hl⟩

/-- The order of R140: by difference, and for equal differences by position. -/
def Before (x y : Nat × Nat) : Prop := x.1 < y.1 ∨ (x.1 = y.1 ∧ x.2 < y.2)

/-- A position below all others takes its place in the order. -/
theorem insertContested_ordered {m pos : Nat} {l : List (Nat × Nat)} (hl : l.Pairwise Before) (hpos : ∀ x ∈ l, pos < x.2) :
    (insertContested m pos l).Pairwise Before := by
  induction l with
  | nil => exact List.pairwise_singleton _ _
  | cons x t ih =>
    obtain ⟨hx, ht⟩ := List.pairwise_cons.1 hl
    obtain ⟨hfirst, hlater⟩ := List.forall_mem_cons.1 hpos
    unfold insertContested
    split
    next hm =>
      refine List.pairwise_cons.2 ⟨fun y hy => ?_, hl⟩
      have hbefore : m ≤ y.1 := by
        obtain rfl | hy := List.mem_cons.1 hy
        · exact hm
        · obtain hlt | ⟨heq, -⟩ := hx y hy <;> omega
      obtain hlt | heq := Nat.lt_or_eq_of_le hbefore
      · exact .inl hlt
      · exact .inr ⟨heq, hpos y hy⟩
    next hm =>
      refine List.pairwise_cons.2 ⟨fun y hy => ?_, ih ht hlater⟩
      rw [(insertContested_perm _ _ _).mem_iff, List.mem_cons] at hy
      obtain rfl | hy := hy
      · exact .inl (Nat.lt_of_not_le hm)
      · exact hx y hy

theorem contestedFrom_ordered (margin pos : Nat) (lists : List (List Candidate)) :
    (contestedFrom margin pos lists).Pairwise Before := by
  induction lists generalizing pos with
  | nil => exact List.Pairwise.nil
  | cons l ls ih =>
    rw [contestedFrom_eq]
    split
    · refine insertContested_ordered (ih (pos + 1)) fun y hy => ?_
      obtain ⟨i, -, rfl, -⟩ := mem_contestedFrom_iff.1 hy
      change pos < pos + 1 + i
      omega
    · exact ih (pos + 1)

theorem mem_contestedSet {margin : Nat} {lists : List (List Candidate)} {k : Nat} :
    k ∈ contestedSet margin lists ↔
      k < lists.length ∧ 2 ≤ (lists.getD k []).length ∧ bestGap (lists.getD k []) ≤ margin := by
  unfold contestedSet
  rw [List.mem_map]
  constructor
  · rintro ⟨y, hy, rfl⟩
    obtain ⟨i, hi, rfl, hl⟩ := mem_contestedFrom_iff.1 hy
    rw [Nat.zero_add]
    exact ⟨hi, hl⟩
  · rintro ⟨hk, hl⟩
    exact ⟨_, mem_contestedFrom_iff.2 ⟨k, hk, rfl, hl⟩, Nat.zero_add k⟩

theorem contestedSet_ordered (margin : Nat) (lists : List (List Candidate)) :
    (contestedSet margin lists).Pairwise fun j k =>
      Before (bestGap (lists.getD j []), j) (bestGap (lists.getD k []), k) := by
  have hself {y : Nat × Nat} (hy : y ∈ contestedFrom margin 0 lists) : (bestGap (lists.getD y.2 []), y.2) = y := by
    obtain ⟨i, -, rfl, -⟩ := mem_contestedFrom_iff.1 hy
    rw [Nat.zero_add]
  refine List.pairwise_map.2 ((contestedFrom_ordered margin 0 lists).imp_of_mem fun {x y} hx hy hxy => ?_)
  rw [hself hx, hself hy]
  exact hxy

/-- Settles O46: the lists by position, and the contested set by insertion from the highest position down. -/
theorem voteAndContestedSetReadTheLists : Obligations.VoteAndContestedSetReadTheLists := by
  intro margin lists gap
  exact ⟨votedImage_length lists, fun k hk => votedImage_get hk, blankCount_eq lists, fun k => mem_contestedSet,
    contestedSet_ordered margin lists⟩

end Sys2Proof.Machine
end

section
/-! SUPPORT. The evaluation completion (R101, R118, R150 to R155): the changes of status, and the state it leaves. -/

namespace Sys2Proof.Machine

/-- R152: the status that a decision gives. -/
theorem Decision.status_eq (d : Decision) (target : Nat) :
    d.status target =
      if d.conflictRecorded = true then .conflict
      else if d.witness = none then .opened
      else if target ≤ d.confirmations then .settled
      else .provisional := by
  unfold Decision.status
  cases d.witness <;> simp

section status

variable {s : State} {k : SectorKey} {l : Fin 4}

/-- R154, R155: of the changes of status short of SETTLED, one to CONFLICT raises its event. -/
theorem State.noteStatus_unsettled {old new : Status} (h : new ≠ .settled ∨ old = .settled) :
    s.noteStatus k l old new = if new = .conflict ∧ old ≠ .conflict then s.raise .conflict else s := by
  unfold State.noteStatus
  by_cases hsame : old = new
  · rw [if_pos hsame, if_neg fun hc => hc.2 (hsame.trans hc.1)]
  · rw [if_neg hsame]
    cases new with
    | settled => exact absurd (h.resolve_left (fun hne => hne rfl)) hsame
    | conflict => exact (if_pos ⟨rfl, hsame⟩).symm
    | opened => exact (if_neg fun hc => nomatch hc.1).symm
    | provisional => exact (if_neg fun hc => nomatch hc.1).symm

/-- The second of two changes to a volume record stands. -/
theorem State.setVolume_over {w : Vector Volume 8} {v : Fin 8} {x : Volume} (h : s.volumes = w.set v x) (y : Volume) :
    s.setVolume v y = { s with volumes := w.set v y } := by
  unfold State.setVolume
  rw [h, Vector.set_set]

/-- R154: a change to SETTLED. -/
theorem State.noteStatus_settled {old : Status} (h : old ≠ .settled) :
    s.noteStatus k l old .settled = s.noteSettled k l := if_neg h

/-- R101, R154: the counts and the done flag that follow a change to SETTLED, as one change of the state. -/
theorem State.noteSettled_eq {j : Nat} {r : Track} (hfind : s.findTrack k.track = some (j, r)) (hkey : r.key = k.track) :
    let y := s.volumes[k.track.volume]
    let m := s.lanes[l]
    let done := r.done = false ∧ y.sectorsPerTrack ≤ r.settled + 1 + r.released
    let u : State :=
      ({ s with
        volumes := s.volumes.set k.track.volume
          { y with settled := y.settled + 1, tracksDone := if done then y.tracksDone + 1 else y.tracksDone }
        lanes := s.lanes.set l
          { m with counts := { m.counts with settledByPass := satInc 255 m.counts.settledByPass } }
        tracks :=
          Table.put s.tracks j { r with settled := r.settled + 1, done := if done then true else r.done } }).raise
        .settled
    s.noteSettled k l = if done then u.raise .trackDone else u := by
  intro y m done u
  have hcounted : s.noteSettled k l =
      (((s.setVolume k.track.volume { y with settled := y.settled + 1 }).setLane l
        { m with counts := { m.counts with settledByPass := satInc 255 m.counts.settledByPass } }).raise
          .settled).noteTrack j { r with settled := r.settled + 1 } := by
    unfold State.noteSettled
    rw [hfind]
  have hvolume : (((s.setVolume k.track.volume { y with settled := y.settled + 1 }).setLane l
      { m with counts := { m.counts with settledByPass := satInc 255 m.counts.settledByPass } }).raise
        .settled).volumes[k.track.volume] = { y with settled := y.settled + 1 } := State.setVolume_get _ _ _
  have htrack : ({ r with settled := r.settled + 1 } : Track).key.volume = k.track.volume := congrArg TrackKey.volume hkey
  rw [hcounted]
  by_cases hdone : done
  · rw [State.noteTrack_reached htrack hvolume j hdone, if_pos hdone]
    simp only [u, if_pos hdone]
    exact congrArg (State.raise · .trackDone) (State.setVolume_over (w := s.volumes) rfl _)
  · rw [State.noteTrack_notReached htrack hvolume j hdone, if_neg hdone]
    simp only [u, if_neg hdone]
    rfl

end status

/-- R150: the completion of an evaluation. -/
theorem exec_evaluationCompletion {s : State} {h : Hand} {e : Entry} {x : Slot} (hphase : s.engine.phase = .evaluation)
    (hhand : s.engine.hand = some h) (he : Table.get s.entries h.entry = some e)
    (hx : Table.get s.slots h.entry = some x) :
    let d := e.decide (s.profileOf e.key.track.volume) x s.engine.margin s.engine.depth s.engine.quorum
    let e' := e.evaluated d x.lists (contestedSet s.engine.margin x.lists)
    exec .evaluationCompletion s =
      .next { ((s.setEntry h.entry e').setSlot h.entry ⟨x.lists, d.witness, d.image⟩).noteStatus e.key h.attempt.lane
          e.status e'.status with engine := s.engine.release } := by
  intro d e'
  change execEvaluationCompletion s = _
  unfold execEvaluationCompletion State.completeEvaluation
  rw [hphase, hhand]
  dsimp only
  rw [he, hx]

/-- Settles O49: the decision and the evaluation fields are stored, and the change of status is noted by its kind. -/
theorem evaluationCompletionTakesEffect : Obligations.EvaluationCompletionTakesEffect := by
  intro s
  refine ⟨fun hphase => ?_, ?_⟩
  · change execEvaluationCompletion s = _
    unfold execEvaluationCompletion
    split
    next heval _ => exact absurd heval hphase
    next => rfl
  · intro h e x hphase hhand he hx v d k status t
    have hstatus : d.status e.target = status := Decision.status_eq d e.target
    let noted : State :=
      (s.setEntry h.entry (e.evaluated d x.lists k)).setSlot h.entry ⟨x.lists, d.witness, d.image⟩
    have ht : { noted with engine := s.engine.release } = t := by
      simp only [noted, t, State.setEntry, State.setSlot, Entry.evaluated, hstatus]
      rfl
    have hexec : exec .evaluationCompletion s =
        .next { noted.noteStatus e.key h.attempt.lane e.status status with engine := s.engine.release } :=
      (exec_evaluationCompletion hphase hhand he hx).trans (congrArg (fun new => (.next
        { noted.noteStatus e.key h.attempt.lane e.status new with engine := s.engine.release } : Result)) hstatus)
    refine ⟨fun hother => ?_, ?_⟩
    · rw [hexec, State.noteStatus_unsettled hother, ← ht]
      split <;> rfl
    · intro hsettled hold hkeys j r hr hkey y m done u
      have hfound : s.findTrack e.key.track = some (j, r) := hkey ▸ State.findTrack_of_mem hkeys (Table.mem_of_get hr)
      have hfind : noted.findTrack e.key.track = some (j, r) := hfound
      have hcounted := State.noteSettled_eq (l := h.attempt.lane) hfind hkey
      by_cases hdone : done
      · rw [hexec, hsettled, State.noteStatus_settled hold, hcounted.trans (if_pos hdone), if_pos hdone]
        simp only [u, ← ht]
        rfl
      · rw [hexec, hsettled, State.noteStatus_settled hold, hcounted.trans (if_neg hdone), if_neg hdone]
        simp only [u, ← ht]
        rfl

end Sys2Proof.Machine
end
